-- ==== Sys2Proof/Word.lean ====
section
/-! DEFINITION. The word types of SDES-CORE, one per value width of 00_scope.md R7; every value has
exactly its width (R12, R13) and bit 0 is the least significant bit (R9). -/

namespace Sys2Proof

/-- A command word and a register-read word (R7: CMD_W and REG_DW, 32 bits). -/
abbrev Word := BitVec 32

/-- A stream byte, a round key (RK_W) or an expansion output (EXP_W), 8 bits. -/
abbrev Byte := BitVec 8

/-- A master key, KEY_W = 9 bits. -/
abbrev Key9 := BitVec 9

/-- A Half6 of R13: exactly 6 bits. -/
abbrev Half6 := BitVec 6

/-- A Block12 of R13: exactly 12 bits. -/
abbrev Block12 := BitVec 12

/-- A register index of the read port, REG_AW = 5 bits. -/
abbrev RegAddr := BitVec 5

end Sys2Proof
end

