-- ==== Sys2Proof/Syntax.lean ====
section
/-! DEFINITION. The commands of SDES-CORE, one constructor per row of the opcode map (30_encoding.md R86). -/

namespace Sys2Proof

/-- A command with its operand fields, each of the width 30_encoding.md R82 gives it. The ignored bits of a
word (R84) are no part of a command. -/
inductive Instr where
  /-- NOP (44_control.md R190). -/
  | nop
  /-- SETKEY k: K12 (41_key_schedule.md R122). -/
  | setkey (k12 : BitVec 12)
  /-- SCHED n: N8 (41_key_schedule.md R123). -/
  | sched (n8 : BitVec 8)
  /-- ENC b: BLK (42_cipher.md R143). -/
  | enc (blk : Block12)
  /-- DEC b: BLK (42_cipher.md R144). -/
  | dec (blk : Block12)
  /-- ROUND b, k: BLK and RKEY (42_cipher.md R145). -/
  | round (blk : Block12) (rkey : Byte)
  /-- FEISTEL h, k: HALF and RKEY (40_bitops.md R108). -/
  | feistel (half : Half6) (rkey : Byte)
  /-- EXPAND h: HALF (40_bitops.md R106). -/
  | expand (half : Half6)
  /-- CONFUSE x: BYTE (40_bitops.md R107). -/
  | confuse (byte : Byte)
  /-- SENC p: PAD8 (43_framer.md R165). -/
  | senc (pad8 : Byte)
  /-- SDEC (43_framer.md R166). -/
  | sdec
  /-- SBYTE d: DATA (43_framer.md R167). -/
  | sbyte (data : Byte)
  /-- SEND (43_framer.md R168). -/
  | send
  /-- CLRERR (44_control.md R191). -/
  | clrerr
  /-- The reserved opcode 0xE (44_control.md R192). -/
  | reservedE
  /-- The reserved opcode 0xF (44_control.md R192). -/
  | reservedF
  deriving DecidableEq, Repr

end Sys2Proof
end

