-- ==== Sys2Proof/Decode.lean ====
section
/-! DEFINITION. Decoding and encoding of command words (30_encoding.md R80 to R88), and the opcode table as data.
Decoding is total: OP alone selects the row and no word is undecodable (R81, R87). -/

namespace Sys2Proof

/-- OP, bits [31:28] (R81). -/
def opField (w : Word) : BitVec 4 := w.extractLsb' 28 4

/-- K12, bits [11:0] (R82). -/
def k12Field (w : Word) : BitVec 12 := w.extractLsb' 0 12

/-- BLK, bits [11:0] (R82). -/
def blkField (w : Word) : Block12 := w.extractLsb' 0 12

/-- RKEY, bits [19:12] (R82). -/
def rkeyField (w : Word) : Byte := w.extractLsb' 12 8

/-- HALF, bits [5:0] (R82). -/
def halfField (w : Word) : Half6 := w.extractLsb' 0 6

/-- The 8-bit field of format FB, bits [7:0]: N8, BYTE, PAD8 or DATA (R82, R83). -/
def byteField (w : Word) : Byte := w.extractLsb' 0 8

/-- The opcode map, one arm per OP value (R86). Bits outside OP and the command's own fields are not read (R84). -/
def decode (w : Word) : Instr :=
  match (opField w).toNat with
  | 0x0 => .nop
  | 0x1 => .setkey (k12Field w)
  | 0x2 => .sched (byteField w)
  | 0x3 => .enc (blkField w)
  | 0x4 => .dec (blkField w)
  | 0x5 => .round (blkField w) (rkeyField w)
  | 0x6 => .feistel (halfField w) (rkeyField w)
  | 0x7 => .expand (halfField w)
  | 0x8 => .confuse (byteField w)
  | 0x9 => .senc (byteField w)
  | 0xA => .sdec
  | 0xB => .sbyte (byteField w)
  | 0xC => .send
  | 0xD => .clrerr
  | 0xE => .reservedE
  | _ => .reservedF

/-- The opcode of a command (R86). -/
def Instr.opcode : Instr → BitVec 4
  | .nop => 0x0
  | .setkey _ => 0x1
  | .sched _ => 0x2
  | .enc _ => 0x3
  | .dec _ => 0x4
  | .round _ _ => 0x5
  | .feistel _ _ => 0x6
  | .expand _ => 0x7
  | .confuse _ => 0x8
  | .senc _ => 0x9
  | .sdec => 0xA
  | .sbyte _ => 0xB
  | .send => 0xC
  | .clrerr => 0xD
  | .reservedE => 0xE
  | .reservedF => 0xF

/-- The RKEY of a command, 0 for commands without it (R86). -/
def Instr.rkeyBits : Instr → Byte
  | .round _ rkey => rkey
  | .feistel _ rkey => rkey
  | .nop | .setkey _ | .sched _ | .enc _ | .dec _ | .expand _ | .confuse _ => 0
  | .senc _ | .sdec | .sbyte _ | .send | .clrerr | .reservedE | .reservedF => 0

/-- The low field of a command: its K12, N8, BLK, HALF, BYTE, PAD8 or DATA (R86). -/
def Instr.lowBits : Instr → BitVec 12
  | .setkey k12 => k12
  | .sched n8 => n8.setWidth 12
  | .enc blk => blk
  | .dec blk => blk
  | .round blk _ => blk
  | .feistel half _ => half.setWidth 12
  | .expand half => half.setWidth 12
  | .confuse byte => byte.setWidth 12
  | .senc pad8 => pad8.setWidth 12
  | .sbyte data => data.setWidth 12
  | .nop | .sdec | .send | .clrerr | .reservedE | .reservedF => 0

/-- A command's word is `(OP << 28) | (RKEY << 12) | low-field` (R86); the ignored bits are written as 0 (R84). -/
def encode (i : Instr) : Word :=
  (i.opcode.setWidth 32 <<< 28) ||| (i.rkeyBits.setWidth 32 <<< 12) ||| i.lowBits.setWidth 32

/-- The bits a row's format reads: OP and the row's own fields (R83). Every other bit is ignored (R84). -/
def usedBits (op : BitVec 4) : Word :=
  match op.toNat with
  | 0x1 | 0x3 | 0x4 => 0xF0000FFF
  | 0x2 | 0x8 | 0x9 | 0xB => 0xF00000FF
  | 0x5 => 0xF00FFFFF
  | 0x6 => 0xF00FF03F
  | 0x7 => 0xF000003F
  | _ => 0xF0000000

/-- One row of the opcode table: a word matches it when `word &&& mask = matchBits` (R87). -/
structure OpcodeRow where
  /-- The mnemonic, as spec/opcode_table.json spells it. -/
  mnemonic : String
  /-- OP << 28. -/
  matchBits : Word
  /-- The bits that must match. -/
  mask : Word
  deriving DecidableEq, Repr

/-- The row of one OP value: its mask is 0xF0000000 and its value OP << 28 (R87). -/
def opcodeRow (mnemonic : String) (op : BitVec 4) : OpcodeRow :=
  { mnemonic := mnemonic, matchBits := op.setWidth 32 <<< 28, mask := 0xF0000000 }

/-- The opcode table, the sixteen rows of R86 in its order. -/
def opcodeTable : List OpcodeRow :=
  [ opcodeRow "NOP" 0x0, opcodeRow "SETKEY" 0x1, opcodeRow "SCHED" 0x2, opcodeRow "ENC" 0x3,
    opcodeRow "DEC" 0x4, opcodeRow "ROUND" 0x5, opcodeRow "FEISTEL" 0x6, opcodeRow "EXPAND" 0x7,
    opcodeRow "CONFUSE" 0x8, opcodeRow "SENC" 0x9, opcodeRow "SDEC" 0xA, opcodeRow "SBYTE" 0xB,
    opcodeRow "SEND" 0xC, opcodeRow "CLRERR" 0xD, opcodeRow "RESERVED_E" 0xE, opcodeRow "RESERVED_F" 0xF ]

/-- A word matches a row of the table (R87). -/
def OpcodeRow.matchesWord (r : OpcodeRow) (w : Word) : Bool := w &&& r.mask == r.matchBits

/-- The mnemonic of a command in spec/opcode_table.json (R86). -/
def Instr.mnemonic : Instr → String
  | .nop => "NOP"
  | .setkey _ => "SETKEY"
  | .sched _ => "SCHED"
  | .enc _ => "ENC"
  | .dec _ => "DEC"
  | .round _ _ => "ROUND"
  | .feistel _ _ => "FEISTEL"
  | .expand _ => "EXPAND"
  | .confuse _ => "CONFUSE"
  | .senc _ => "SENC"
  | .sdec => "SDEC"
  | .sbyte _ => "SBYTE"
  | .send => "SEND"
  | .clrerr => "CLRERR"
  | .reservedE => "RESERVED_E"
  | .reservedF => "RESERVED_F"

/-- The word whose low `nbits` bits are those of `w` and whose other bits are 0 (log 10: a table row may be
narrower than a command word). -/
def tableWord (nbits w : Nat) : Word := BitVec.ofNat 32 (w % 2 ^ nbits)

/-- The instruction the decoder reads from a table row's word: a command word moves whole on parallel signals, with no
byte lanes (20_memory.md R58), so the row's bits are the word's bits. DESIGN CHOICE, safe (log 10): more than 32 bits are
refused, since every command is exactly one 32-bit word (R80). -/
def decodeTableWord (nbits w : Nat) : Option Instr :=
  if nbits ≤ 32 then some (decode (tableWord nbits w)) else none

end Sys2Proof
end

