-- ==== Sys2Proof/Machine/Operands.lean ====
section
/-! DEFINITION. Operand assembly and the operand checks of 30_encoding.md R85 and R89. Every operand is an unsigned
field taken as it stands; the only widening is zero extension. -/

namespace Sys2Proof.Machine

/-- Zero extension of a result into the 12-bit RESULT register (10_state.md R28). -/
def zext12 {n : Nat} (v : BitVec n) : Block12 := v.setWidth 12

/-- Zero extension through the register read port (00_scope.md R12). -/
def zext32 {n : Nat} (v : BitVec n) : Word := v.setWidth 32

/-- The master key a legal K12 carries, K12[8:0] (41_key_schedule.md R122). -/
def keyOfK12 (k12 : BitVec 12) : Key9 := k12.setWidth 9

/-- The round count a legal N8 carries, N8[3:0] (41_key_schedule.md R123). -/
def countOfN8 (n8 : BitVec 8) : BitVec 4 := n8.setWidth 4

/-- The padding length a legal PAD8 or header byte carries, its bits [1:0] (43_framer.md R165, R167). -/
def padOfByte (b : Byte) : BitVec 2 := b.setWidth 2

/-- K12 > 0x1FF, which SETKEY refuses (30_encoding.md R89). -/
def keyTooLarge (k12 : BitVec 12) : Bool := decide (0x1FF < k12.toNat)

/-- N8 > 9, which SCHED refuses (30_encoding.md R89). -/
def tooManyRounds (n8 : BitVec 8) : Bool := decide (9 < n8.toNat)

/-- A padding length above 2, which SENC refuses as an operand (30_encoding.md R89) and SBYTE as a header byte
(43_framer.md R167). -/
def padTooLarge (b : Byte) : Bool := decide (2 < b.toNat)

end Sys2Proof.Machine
end

