-- ==== Sys2Proof/Config.lean ====
section
/-! DEFINITION. What an implementation fixes: the parameters the spec leaves as parameters, and the one
free value. The values this machine takes for the parameters are in Machine/Params.lean. -/

namespace Sys2Proof

/-- The parameters of 00_scope.md R7 that rules read: the two substitution tables (40_bitops.md R103) and
the filler byte (43_framer.md R174). The functions of the model take a `Params`, so a law about them can be
stated for every table. -/
structure Params where
  /-- SBOX1, the table of the left (high) nibble. -/
  sbox1 : Vector (BitVec 3) 16
  /-- SBOX2, the table of the right (low) nibble. -/
  sbox2 : Vector (BitVec 3) 16
  /-- FILLER. -/
  filler : Byte
  deriving DecidableEq, Repr

/-- DESIGN CHOICE, safe (log 3). FREE VALUE: what a read of round-key entry `i` gives for `i ≥ 9`, an entry that
does not exist. A cipher command reaches it only in a state with NR > 9, which 10_state.md R24 says
never stands; nothing constrains it. -/
opaque Config.rkAbsent : Nat → Byte

end Sys2Proof
end

