-- ==== Sys2Proof/Machine/State.lean ====
section
/-! DEFINITION. The machine's state as plain data: the record of 10_state.md R20, the output port's position, and the
model's own record of the host's interactions; and the state after reset (R41). -/

namespace Sys2Proof.Machine

/-- SMODE, the framer's mode (10_state.md R32). -/
inductive SMode where
  /-- 0: no stream active. -/
  | idle
  /-- 1: an encryption stream is active and its header has been emitted. -/
  | enc
  /-- 2: a decryption stream is active and its header byte has not yet arrived. -/
  | decHdr
  /-- 3: a decryption stream is active and its header byte has been taken. -/
  | dec
  deriving DecidableEq, Repr

/-- The error kinds of 60_exceptions.md R200. -/
inductive ErrorKind where
  /-- Code 1, raised by SCHED (R201). -/
  | invalidRoundCount
  /-- Code 2, raised by SBYTE and SEND (R202). -/
  | formatError
  /-- Code 3, raised by SETKEY and SENC (R203). -/
  | invalidArgument
  /-- Code 4, raised by a command in a state where it has no meaning (R204). -/
  | sequenceError
  /-- Code 5, raised by the reserved opcodes (R205). -/
  | reservedCommand
  deriving DecidableEq, Repr

/-- Three byte registers in stream order: a chunk, BUF[0..2] or HOLD[0..2] (10_state.md R34, R35). -/
structure Chunk where
  /-- Byte 0. -/
  b0 : Byte
  /-- Byte 1. -/
  b1 : Byte
  /-- Byte 2. -/
  b2 : Byte
  deriving DecidableEq, Repr

/-- One interaction of the host with the core (20_memory.md R70). -/
inductive HostMove where
  /-- Write a command word to the command port (R51). -/
  | command (w : Word)
  /-- Read a register through the register read port (R52). -/
  | readReg (a : RegAddr)
  /-- Raise `out_ready` for one clock edge, to take an output byte if one is offered (R55). -/
  | outReady
  /-- Assert and release `rst` (70_reset_and_hazards.md R230). -/
  | reset
  deriving DecidableEq, Repr

/-- The reasons the machine stops with a fault: none. No error stops the core (60_exceptions.md R208); every error is
recorded in LASTERR and STICKY and the next command is taken normally (log 9). -/
inductive Fault where
  deriving DecidableEq, Repr

/-- The reasons a step has no meaning. -/
inductive Refusal where
  /-- An instruction of the opcode table with no meaning yet, by its mnemonic. Raised only by an arm of `exec`; no arm
  raises it now. Safe. -/
  | notModelled (mnemonic : String)
  deriving DecidableEq, Repr

/-- The machine's state. The fields down to `out` are exactly the record of 10_state.md R20; `taken` is the position
of the output byte port; `script`, `reads` and `got` are the model's record of the host (log 1). -/
structure State where
  /-- KEY, the master key (R23). -/
  key : Key9
  /-- NR, the round count of the current schedule (R24). -/
  nr : BitVec 4
  /-- KV: RK and NR hold the schedule of the current KEY (R25). -/
  kv : Bool
  /-- RK[0..8], the round-key file (R26). -/
  rk : Vector Byte 9
  /-- RESULT (R28). -/
  result : Block12
  /-- LASTERR, the outcome of the most recent command (R29). -/
  lasterr : BitVec 3
  /-- STICKY[4:0], one bit per error kind (R30). -/
  sticky : BitVec 5
  /-- SMODE (R32). -/
  smode : SMode
  /-- PAD, the padding length of the current or last stream (R33). -/
  pad : BitVec 2
  /-- BUF[0..2], the chunk being collected (R34). -/
  buf : Chunk
  /-- BCNT, how many bytes BUF holds (R34). -/
  bcnt : BitVec 2
  /-- HOLD[0..2], the last decrypted chunk not yet emitted (R35). -/
  hold : Chunk
  /-- HV: HOLD holds a chunk (R35). -/
  hv : Bool
  /-- OCNT, the count of bytes emitted since reset, modulo 2^32 (R37). -/
  ocnt : BitVec 32
  /-- OUT, every byte emitted since reset, oldest first (20_memory.md R56). -/
  out : List Byte
  /-- How many bytes of OUT the host has taken since reset: the output byte port offers the next one (20_memory.md R55). -/
  taken : Nat
  /-- The host's interactions not yet performed, in order (20_memory.md R64, R70; log 1). -/
  script : List HostMove
  /-- The register reads the host has made, oldest first (20_memory.md R71; log 1). -/
  reads : List (RegAddr × Word)
  /-- The bytes the host has taken, oldest first, those taken before a reset too (70_reset_and_hazards.md R233; log 5). -/
  got : List Byte
  deriving DecidableEq, Repr

/-- The state record of 10_state.md R20, the core's whole state: KEY to OUT, without the host's side. -/
structure CoreRecord where
  /-- KEY (R23). -/
  key : Key9
  /-- NR (R24). -/
  nr : BitVec 4
  /-- KV (R25). -/
  kv : Bool
  /-- RK[0..8] (R26). -/
  rk : Vector Byte 9
  /-- RESULT (R28). -/
  result : Block12
  /-- LASTERR (R29). -/
  lasterr : BitVec 3
  /-- STICKY[4:0] (R30). -/
  sticky : BitVec 5
  /-- SMODE (R32). -/
  smode : SMode
  /-- PAD (R33). -/
  pad : BitVec 2
  /-- BUF[0..2] (R34). -/
  buf : Chunk
  /-- BCNT (R34). -/
  bcnt : BitVec 2
  /-- HOLD[0..2] (R35). -/
  hold : Chunk
  /-- HV (R35). -/
  hv : Bool
  /-- OCNT (R37). -/
  ocnt : BitVec 32
  /-- OUT (20_memory.md R56). -/
  out : List Byte
  deriving DecidableEq, Repr

/-- What a run shows (20_memory.md R71): its final OUT, the register reads the host made, and the final state. -/
structure Observation where
  /-- The final OUT. -/
  out : List Byte
  /-- The register reads the host made, oldest first. -/
  reads : List (RegAddr × Word)
  /-- The final state of 10_state.md R20. -/
  final : CoreRecord
  deriving DecidableEq, Repr

/-- The state after reset: every register at the value of 10_state.md R41, OUT empty, and a host that has done
nothing and has nothing left to do (log 1). -/
def State.reset : State :=
  { key := 0x000, nr := 0, kv := false, rk := #v[0, 0, 0, 0, 0, 0, 0, 0, 0]
    result := 0x000, lasterr := 0, sticky := 0b00000
    smode := .idle, pad := 0, buf := ⟨0, 0, 0⟩, bcnt := 0, hold := ⟨0, 0, 0⟩, hv := false
    ocnt := 0, out := [], taken := 0, script := [], reads := [], got := [] }

end Sys2Proof.Machine
end

