-- ==== Sys2Proof/Machine/Flags.lean ====
section
/-! DEFINITION. Every status computation of the spec: the error codes and sticky bits (60_exceptions.md R200, R210), the
mode's code (10_state.md R32) and the STATUS image (R38). The core has no condition flags (R31). -/

namespace Sys2Proof.Machine

/-- The code of an error kind in LASTERR (60_exceptions.md R200); 0 is OK. -/
def errorCode : ErrorKind → BitVec 3
  | .invalidRoundCount => 1
  | .formatError => 2
  | .invalidArgument => 3
  | .sequenceError => 4
  | .reservedCommand => 5

/-- The sticky bit of an error kind, STICKY[c-1] for its code c (60_exceptions.md R210). -/
def stickyBit (e : ErrorKind) : BitVec 5 := 1#5 <<< ((errorCode e).toNat - 1)

/-- The 2-bit code of a framer mode (10_state.md R32). -/
def modeCode : SMode → BitVec 2
  | .idle => 0
  | .enc => 1
  | .decHdr => 2
  | .dec => 3

/-- The STATUS image of 10_state.md R38, most significant field first: [31:17] 0, [16] HV, [15:14] BCNT, [13:12] PAD,
[11:10] SMODE, [9] KV, [8:4] STICKY, [3] 0, [2:0] LASTERR. -/
def statusImage (s : State) : Word :=
  0#15 ++ BitVec.ofBool s.hv ++ s.bcnt ++ s.pad ++ modeCode s.smode ++ BitVec.ofBool s.kv ++ s.sticky ++ 0#1 ++ s.lasterr

end Sys2Proof.Machine
end

