-- ==== Sys2Proof/Machine/Ops.lean ====
section
/-! DEFINITION. The named operations over the state that the commands share: emission, the outcome of a command, raising an
error, ending a stream, filling the chunk buffer, and reading the round-key file. -/

namespace Sys2Proof.Machine

/-- What a command answers. -/
abbrev Answer := Host.Outcome State Fault Refusal

/-- `emit(b)`: append b to OUT and count it modulo 2^32 (20_memory.md R56). -/
def emit (b : Byte) (s : State) : State := { s with out := s.out ++ [b], ocnt := s.ocnt + 1 }

/-- Emit bytes one after another, in order. -/
def emitAll (bs : List Byte) (s : State) : State := bs.foldl (fun t b => emit b t) s

/-- A command that ends without error writes LASTERR ← 0 (10_state.md R29). -/
def succeed (s : State) : Answer := .next { s with lasterr := 0 }

/-- `raise E`, the whole of taking an error (60_exceptions.md R210, R215): LASTERR ← c and STICKY[c-1] ← 1, and the command
ends. There is no return from an error (R216). -/
def raise (e : ErrorKind) (s : State) : Answer :=
  .next { s with lasterr := errorCode e, sticky := s.sticky ||| stickyBit e }

/-- CLRERR's write of STICKY, the only clearing action (44_control.md R191, 60_exceptions.md R216). -/
def clearSticky (s : State) : State := { s with sticky := 0 }

/-- Write RESULT (10_state.md R28). -/
def setResult (r : Block12) (s : State) : State := { s with result := r }

/-- SMODE ← IDLE, BCNT ← 0, HV ← 0: the end of a stream (43_framer.md R168), which is also all of `abort_stream()` (R169). -/
def endStream (s : State) : State := { s with smode := .idle, bcnt := 0, hv := false }

/-- `abort_stream(); raise FormatError` (43_framer.md R169, 60_exceptions.md R202). -/
def abortWithFormatError (s : State) : Answer := raise .formatError (endStream s)

/-- Write byte `i` of three byte registers; there is none beyond index 2. -/
def setByte (c : Chunk) (i : Nat) (d : Byte) : Chunk :=
  match i with
  | 0 => { c with b0 := d }
  | 1 => { c with b1 := d }
  | 2 => { c with b2 := d }
  | _ => c

/-- The three bytes in stream order. -/
def chunkBytes (c : Chunk) : List Byte := [c.b0, c.b1, c.b2]

/-- BUF[BCNT] ← DATA, BCNT ← BCNT + 1 (43_framer.md R167). -/
def pushByte (d : Byte) (s : State) : State :=
  { s with buf := setByte s.buf s.bcnt.toNat d, bcnt := s.bcnt + 1 }

/-- Entry `i` of the round-key file (10_state.md R26); an entry that does not exist is a free value (log 3). -/
def roundKeyEntry (s : State) (i : Nat) : Byte := if h : i < 9 then s.rk[i] else Config.rkAbsent i

end Sys2Proof.Machine
end

