-- ==== Sys2Proof/Machine/Params.lean ====
section
/-! DEFINITION. The parameter values of this machine: the defaults 00_scope.md R7 gives. -/

namespace Sys2Proof.Machine

/-- SBOX1 of 40_bitops.md R103, by index 0x0 to 0xF. PRESUMED, unsafe on the entries other than 0x0, 0x7 and 0x9: the spec's
default, which it takes from general knowledge (log 2). -/
def sbox1 : Vector (BitVec 3) 16 := #v[5, 2, 1, 6, 3, 4, 7, 0, 1, 4, 6, 2, 0, 7, 5, 3]

/-- SBOX2 of 40_bitops.md R103, by index 0x0 to 0xF. PRESUMED, unsafe on the entries other than 0x2, 0x4 and 0xA (log 2). -/
def sbox2 : Vector (BitVec 3) 16 := #v[4, 0, 6, 5, 7, 1, 3, 2, 5, 3, 0, 7, 6, 2, 1, 4]

/-- The machine's parameters; FILLER is 0x00 (43_framer.md R174). -/
def params : Params := { sbox1 := sbox1, sbox2 := sbox2, filler := 0x00 }

/-- The six entries the source's vectors fix: any parameter must agree with them (40_bitops.md R103). -/
abbrev pinned (p : Params) : Prop :=
  p.sbox1[0x0] = 5 ∧ p.sbox1[0x7] = 0 ∧ p.sbox1[0x9] = 4 ∧
  p.sbox2[0x2] = 6 ∧ p.sbox2[0x4] = 7 ∧ p.sbox2[0xA] = 0

end Sys2Proof.Machine
end

