-- ==== Sys2Proof/Machine/BitOps.lean ====
section
/-! DEFINITION. The BitOps unit (40_bitops.md): expand, the S-box lookups, feistel, and the commands EXPAND, CONFUSE and
FEISTEL. -/

namespace Sys2Proof.Machine

/-- Bit i of a value as a 1-bit value, `v[i]` (00_scope.md R9). -/
def bitAt {n : Nat} (v : BitVec n) (i : Nat) : BitVec 1 := v.extractLsb' i 1

/-- expand, by its bit list { h[5], h[4], h[2], h[3], h[2], h[3], h[1], h[0] } (R100; the shift expression of R101 is not
the definition, 90_conflicts.md C1). -/
def expand (h : Half6) : Byte :=
  bitAt h 5 ++ bitAt h 4 ++ bitAt h 2 ++ bitAt h 3 ++ bitAt h 2 ++ bitAt h 3 ++ bitAt h 1 ++ bitAt h 0

/-- A lookup in a table of 16 entries by a 4-bit index (R103). -/
def lookup (table : Vector (BitVec 3) 16) (i : BitVec 4) : BitVec 3 := table[i.toNat]

/-- confuse: { SBOX1[x[7:4]], SBOX2[x[3:0]] } (R104). -/
def confuse (p : Params) (x : Byte) : Half6 :=
  lookup p.sbox1 (x.extractLsb' 4 4) ++ lookup p.sbox2 (x.extractLsb' 0 4)

/-- feistel(h, k) = confuse(expand(h) ^ k) (R105). -/
def feistel (p : Params) (h : Half6) (k : Byte) : Half6 := confuse p (expand h ^^^ k)

/-- EXPAND (R106): RESULT ← zext_12(expand(HALF)). -/
def execExpand (half : Half6) (s : State) : Answer :=
  succeed (setResult (zext12 (expand half)) s)

/-- CONFUSE (R107): RESULT ← zext_12(confuse(BYTE)). -/
def execConfuse (byte : Byte) (s : State) : Answer :=
  succeed (setResult (zext12 (confuse params byte)) s)

/-- FEISTEL (R108): RESULT ← zext_12(feistel(HALF, RKEY)); the round-key file is not read. -/
def execFeistel (half : Half6) (rkey : Byte) (s : State) : Answer :=
  succeed (setResult (zext12 (feistel params half rkey)) s)

end Sys2Proof.Machine
end

