-- ==== Sys2Proof/Machine/Cipher.lean ====
section
/-! DEFINITION. The FeistelCipher unit (42_cipher.md): the round, the block transforms, and the commands ROUND, ENC and DEC.
The transforms take the parameters and a key list, given as a function of the round index. -/

namespace Sys2Proof.Machine

/-- The left half, b[11:6] (R140). -/
def leftHalf (b : Block12) : Half6 := b.extractLsb' 6 6

/-- The right half, b[5:0] (R140). -/
def rightHalf (b : Block12) : Half6 := b.extractLsb' 0 6

/-- feistel_round(b, k): one round without the final swap (R140). -/
def feistelRound (p : Params) (b : Block12) (k : Byte) : Block12 :=
  rightHalf b ++ (leftHalf b ^^^ feistel p (rightHalf b) k)

/-- The direction of Crypt (R141). -/
inductive Dir where
  /-- Keys 0 to n-1, Encrypt. -/
  | fwd
  /-- Keys n-1 down to 0, Decrypt. -/
  | rev
  deriving DecidableEq, Repr

/-- The key index of loop pass j: `(dir = Fwd) ? j : n-1-j` (R141). -/
def keyIndex (dir : Dir) (n j : Nat) : Nat :=
  match dir with
  | .fwd => j
  | .rev => n - 1 - j

/-- One loop pass on the halves: (L, R) ← (R, L ^ feistel(R, k)) (R141). -/
def cryptPass (p : Params) (k : Byte) (lr : Half6 × Half6) : Half6 × Half6 :=
  (lr.2, lr.1 ^^^ feistel p lr.2 k)

/-- The halves after the n loop passes of Crypt (R141). -/
def cryptHalves (p : Params) (b : Block12) (keys : Nat → Byte) (n : Nat) (dir : Dir) : Half6 × Half6 :=
  (List.range n).foldl (fun lr j => cryptPass p (keys (keyIndex dir n j)) lr) (leftHalf b, rightHalf b)

/-- Crypt: n rounds and the final swap, which is not counted as a round (R141). -/
def crypt (p : Params) (b : Block12) (keys : Nat → Byte) (n : Nat) (dir : Dir) : Block12 :=
  (cryptHalves p b keys n dir).2 ++ (cryptHalves p b keys n dir).1

/-- Encrypt (R141); zero rounds is the identity, with no swap (R142, 90_conflicts.md C2). -/
def encrypt (p : Params) (b : Block12) (keys : Nat → Byte) (n : Nat) : Block12 :=
  if n = 0 then b else crypt p b keys n .fwd

/-- Decrypt (R141); zero rounds is the identity (R142). -/
def decrypt (p : Params) (b : Block12) (keys : Nat → Byte) (n : Nat) : Block12 :=
  if n = 0 then b else crypt p b keys n .rev

/-- Encrypt with the current schedule, RK[0..NR-1] and NR (R143; Enc' of 43_framer.md R164). -/
def encBlock (s : State) (b : Block12) : Block12 := encrypt params b (roundKeyEntry s) s.nr.toNat

/-- Decrypt with the current schedule (R144; Dec' of 43_framer.md R164). -/
def decBlock (s : State) (b : Block12) : Block12 := decrypt params b (roundKeyEntry s) s.nr.toNat

/-- ENC (R143). -/
def execEnc (blk : Block12) (s : State) : Answer :=
  if s.kv = false then raise .sequenceError s else succeed (setResult (encBlock s blk) s)

/-- DEC (R144). -/
def execDec (blk : Block12) (s : State) : Answer :=
  if s.kv = false then raise .sequenceError s else succeed (setResult (decBlock s blk) s)

/-- ROUND (R145): the key is the operand, so KV is not read. -/
def execRound (blk : Block12) (rkey : Byte) (s : State) : Answer :=
  succeed (setResult (feistelRound params blk rkey) s)

end Sys2Proof.Machine
end

