-- ==== Sys2Proof/Machine/Control.lean ====
section
/-! DEFINITION. The control commands (44_control.md): NOP, CLRERR and the reserved opcodes. -/

namespace Sys2Proof.Machine

/-- NOP (R190): nothing but LASTERR ← 0. -/
def execNop (s : State) : Answer := succeed s

/-- CLRERR (R191): STICKY ← 0 and LASTERR ← 0. -/
def execClrerr (s : State) : Answer := succeed (clearSticky s)

/-- The reserved opcode 0xE (R192, 30_encoding.md R88). -/
def execReservedE (s : State) : Answer := raise .reservedCommand s

/-- The reserved opcode 0xF (R192, 30_encoding.md R88). -/
def execReservedF (s : State) : Answer := raise .reservedCommand s

end Sys2Proof.Machine
end

