-- ==== Sys2Proof/Machine/Framer.lean ====
section
/-! DEFINITION. The BlockFramer unit (43_framer.md): packing, the chunk transforms, and the commands SENC, SDEC, SBYTE and
SEND. -/

namespace Sys2Proof.Machine

/-- The 24-bit value {c0, c1, c2} of a chunk, big-endian (R160, 20_memory.md R58; log 8). -/
def chunkValue (c : Chunk) : BitVec 24 := c.b0 ++ c.b1 ++ c.b2

/-- pack: the blocks HI = V[23:12] and LO = V[11:0] (R160). -/
def pack (c : Chunk) : Block12 × Block12 :=
  ((chunkValue c).extractLsb' 12 12, (chunkValue c).extractLsb' 0 12)

/-- unpack: W = {H, L} as the bytes W[23:16], W[15:8], W[7:0] (R161). -/
def unpack (hl : Block12 × Block12) : Chunk :=
  { b0 := (hl.1 ++ hl.2).extractLsb' 16 8
    b1 := (hl.1 ++ hl.2).extractLsb' 8 8
    b2 := (hl.1 ++ hl.2).extractLsb' 0 8 }

/-- Both blocks of a chunk through one block transform, independently (R164). -/
def mapChunk (f : Block12 → Block12) (c : Chunk) : Chunk := unpack (f (pack c).1, f (pack c).2)

/-- EncChunk with the current schedule (R164). -/
def encChunk (s : State) (c : Chunk) : Chunk := mapChunk (encBlock s) c

/-- DecChunk with the current schedule (R164). -/
def decChunk (s : State) (c : Chunk) : Chunk := mapChunk (decBlock s) c

/-- SENC (R165). -/
def execSenc (pad8 : Byte) (s : State) : Answer :=
  if s.smode ≠ .idle ∨ s.kv = false then raise .sequenceError s
  else if padTooLarge pad8 then raise .invalidArgument s
  else succeed (emit pad8 { s with pad := padOfByte pad8, bcnt := 0, hv := false, smode := .enc })

/-- SDEC (R166). -/
def execSdec (s : State) : Answer :=
  if s.smode ≠ .idle ∨ s.kv = false then raise .sequenceError s
  else succeed { s with pad := 0, bcnt := 0, hv := false, smode := .decHdr }

/-- SBYTE in DEC_HDR: the header byte (R167). -/
def takeHeader (d : Byte) (s : State) : Answer :=
  if padTooLarge d then abortWithFormatError s
  else succeed { s with pad := padOfByte d, smode := .dec }

/-- The chunk (BUF[0], BUF[1], DATA) that a third byte completes (R167). -/
def completedChunk (d : Byte) (s : State) : Chunk := { b0 := s.buf.b0, b1 := s.buf.b1, b2 := d }

/-- SBYTE in ENC, third byte: the chunk is encrypted and emitted at once (R167). -/
def completeEnc (d : Byte) (s : State) : State :=
  emitAll (chunkBytes (encChunk s (completedChunk d s))) { s with bcnt := 0 }

/-- The bytes HOLD gives up when it holds a chunk (R167). -/
def heldBytes (s : State) : List Byte := if s.hv then chunkBytes s.hold else []

/-- SBYTE in DEC, third byte: the chunk held before is emitted, and the decrypted one is held back (R167). -/
def completeDec (d : Byte) (s : State) : State :=
  { emitAll (heldBytes s) { s with bcnt := 0 } with hold := decChunk s (completedChunk d s), hv := true }

/-- SBYTE (R167). -/
def execSbyte (data : Byte) (s : State) : Answer :=
  match s.smode with
  | .idle => raise .sequenceError s
  | .decHdr => takeHeader data s
  | .enc => succeed (if s.bcnt.toNat < 2 then pushByte data s else completeEnc data s)
  | .dec => succeed (if s.bcnt.toNat < 2 then pushByte data s else completeDec data s)

/-- The padding length a header must give for BCNT buffered bytes, (3 - BCNT) mod 3 (R168). -/
def requiredPad (s : State) : Nat := (3 - s.bcnt.toNat) % 3

/-- `for i in n..2: BUF[i] ← FILLER` (R168). -/
def fillFrom (n : Nat) (filler : Byte) (c : Chunk) : Chunk :=
  (List.range 3).foldl (fun c i => if n ≤ i then setByte c i filler else c) c

/-- SEND in ENC with the right header: a partial chunk is filled, encrypted and emitted (R168). -/
def flushEnc (s : State) : State :=
  if s.bcnt.toNat = 0 then s
  else
    let filled := fillFrom s.bcnt.toNat params.filler s.buf
    emitAll (chunkBytes (encChunk s filled)) { s with buf := filled }

/-- SEND in DEC after whole chunks: the held chunk is the final one, and its first 3 - PAD bytes are emitted (R168). -/
def flushDec (s : State) : State :=
  if s.hv then emitAll ((chunkBytes s.hold).take (3 - s.pad.toNat)) s else s

/-- SEND (R168). -/
def execSend (s : State) : Answer :=
  match s.smode with
  | .idle => raise .sequenceError s
  | .decHdr => abortWithFormatError s
  | .enc => if s.pad.toNat ≠ requiredPad s then abortWithFormatError s else succeed (endStream (flushEnc s))
  | .dec => if s.bcnt.toNat ≠ 0 then abortWithFormatError s else succeed (endStream (flushDec s))

end Sys2Proof.Machine
end

