-- ==== Sys2Proof/Machine/KeySchedule.lean ====
section
/-! DEFINITION. The KeySchedule unit (41_key_schedule.md): the round-key function and the commands SETKEY and SCHED. -/

namespace Sys2Proof.Machine

/-- rotl9, the 9-bit rotate left of 00_scope.md R11: `((v << i) | (v >> (9 - i)))[8:0]`. -/
def rotl9 (v : Key9) (i : Nat) : Key9 := (v <<< i) ||| (v >>> (9 - i))

/-- RoundKey(key, i) = rotl9(key, i)[8:1] (R120); entries 4 to 8 follow the same rotation (R121, log 8). -/
def roundKey (key : Key9) (i : Nat) : Byte := (rotl9 key i).extractLsb' 1 8

/-- The round-key file SCHED writes: RoundKey(KEY, i) below the round count and 0x00 from it on (R123, 10_state.md R26). -/
def schedule (key : Key9) (n : Nat) : Vector Byte 9 :=
  Vector.ofFn fun i => if i.val < n then roundKey key i.val else 0x00

/-- SETKEY (R122). -/
def execSetkey (k12 : BitVec 12) (s : State) : Answer :=
  if s.smode ≠ .idle then raise .sequenceError s
  else if keyTooLarge k12 then raise .invalidArgument s
  else succeed { s with key := keyOfK12 k12, kv := false }

/-- SCHED (R123). -/
def execSched (n8 : BitVec 8) (s : State) : Answer :=
  if s.smode ≠ .idle then raise .sequenceError s
  else if tooManyRounds n8 then raise .invalidRoundCount { s with kv := false }
  else succeed { s with rk := schedule s.key n8.toNat, nr := countOfN8 n8, kv := true }

end Sys2Proof.Machine
end

