-- ==== Sys2Proof/Machine/Dispatch.lean ====
section
/-! DEFINITION. The dispatch of a decoded command to its meaning, one arm per row of the opcode map (30_encoding.md R86). -/

namespace Sys2Proof.Machine

/-- One command as one atomic step of the core (20_memory.md R51). -/
def exec (i : Instr) (s : State) : Host.Outcome State Fault Refusal :=
  match i with
  | .nop => Sys2Proof.Machine.execNop s
  | .setkey k12 => Sys2Proof.Machine.execSetkey k12 s
  | .sched n8 => Sys2Proof.Machine.execSched n8 s
  | .enc blk => Sys2Proof.Machine.execEnc blk s
  | .dec blk => Sys2Proof.Machine.execDec blk s
  | .round blk rkey => Sys2Proof.Machine.execRound blk rkey s
  | .feistel half rkey => Sys2Proof.Machine.execFeistel half rkey s
  | .expand half => Sys2Proof.Machine.execExpand half s
  | .confuse byte => Sys2Proof.Machine.execConfuse byte s
  | .senc pad8 => Sys2Proof.Machine.execSenc pad8 s
  | .sdec => Sys2Proof.Machine.execSdec s
  | .sbyte data => Sys2Proof.Machine.execSbyte data s
  | .send => Sys2Proof.Machine.execSend s
  | .clrerr => Sys2Proof.Machine.execClrerr s
  | .reservedE => Sys2Proof.Machine.execReservedE s
  | .reservedF => Sys2Proof.Machine.execReservedF s

end Sys2Proof.Machine
end

