-- ==== Sys2Proof/Machine/HostPort.lean ====
section
/-! DEFINITION. The host's side of the block: the register read port, the output byte port, the reset input, and what a
run's observation is (20_memory.md R52 to R57, R70, R71; 70_reset_and_hazards.md R230). -/

namespace Sys2Proof.Machine

/-- VERSION, the constant at address 0x00 (10_state.md R39). -/
def version : Word := 0x00000001

/-- The register read map (20_memory.md R53); a reserved address reads 0 (R54). -/
def readRegister (a : RegAddr) (s : State) : Word :=
  match a.toNat with
  | 0x00 => version
  | 0x01 => statusImage s
  | 0x02 => zext32 s.key
  | 0x03 => zext32 s.nr
  | 0x04 => zext32 s.result
  | 0x05 => s.ocnt
  | 0x06 => 0x00000000
  | 0x07 => 0x00000000
  | n => if h : n - 8 < 9 then zext32 s.rk[n - 8] else 0x00000000

/-- A register read by the host: no side effect on the core (20_memory.md R52); the host records what it read (R71). -/
def hostRead (a : RegAddr) (s : State) : State := { s with reads := s.reads ++ [(a, readRegister a s)] }

/-- The byte the output port offers, if any: `out_valid` and `out_data` (20_memory.md R55). -/
def offeredByte (s : State) : Option Byte := s.out[s.taken]?

/-- One clock edge with `out_ready` = 1: the offered byte is taken if there is one (20_memory.md R55). DEDUCED, safe
(log 12): with `out_valid` = 0 nothing is taken. Taking changes no core state (R55), and the byte stays in OUT (R57). -/
def hostTake (s : State) : State :=
  match offeredByte s with
  | some b => { s with taken := s.taken + 1, got := s.got ++ [b] }
  | none => s

/-- Reset by the host: the whole state of the core is replaced by the reset state (70_reset_and_hazards.md R230), and OUT
with it (R233). DESIGN CHOICE, safe (log 5): what the host has read, what it has taken and what it will do next are the
host's and stay. -/
def hostReset (s : State) : State :=
  { State.reset with script := s.script, reads := s.reads, got := s.got }

/-- The record of 10_state.md R20 a state holds. -/
def coreRecord (s : State) : CoreRecord :=
  { key := s.key, nr := s.nr, kv := s.kv, rk := s.rk, result := s.result, lasterr := s.lasterr, sticky := s.sticky
    smode := s.smode, pad := s.pad, buf := s.buf, bcnt := s.bcnt, hold := s.hold, hv := s.hv
    ocnt := s.ocnt, out := s.out }

/-- The observation of a run that ends in a state (20_memory.md R71). What the host itself sees of it is the reads and OUT
(00_scope.md R15). -/
def observation (s : State) : Observation := { out := s.out, reads := s.reads, final := coreRecord s }

/-- Where a run starts: at the reset state, with the host's interactions still to be done (20_memory.md R71; log 1). -/
def startRun (moves : List HostMove) : State := { State.reset with script := moves }

end Sys2Proof.Machine
end

