-- ==== Sys2Proof/Machine/Step.lean ====
section
/-! DEFINITION. One step of the machine: the host's next interaction (20_memory.md R64, R70), a command being decoded and
executed as one atomic step (R51). -/

namespace Sys2Proof.Machine

/-- One step. With no interaction left the core holds its state unchanged (60_exceptions.md R223, 20_memory.md R71). -/
def step (s : State) : Host.Outcome State Fault Refusal :=
  match s.script with
  | [] => .next s
  | .command w :: rest => exec (decode w) { s with script := rest }
  | .readReg a :: rest => .next (hostRead a { s with script := rest })
  | .outReady :: rest => .next (hostTake { s with script := rest })
  | .reset :: rest => .next (hostReset { s with script := rest })

/-- The host writes the command word next: it stands first among the host's interactions, so the very next step takes and
runs it (log 1, log 10). -/
def State.withFetchWord (s : State) (nbits w : Nat) : State :=
  { s with script := .command (tableWord nbits w) :: s.script }

end Sys2Proof.Machine
end

