-- ==== Sys2Proof/Machine/Run.lean ====
section
/-! DEFINITION. A run (20_memory.md R71): a finite sequence of host interactions starting at reset, and what it shows. -/

namespace Sys2Proof.Machine

/-- The observation of the run of the host's interactions: one step each, from reset. The run ends when the host issues no
more; the core itself never ends it (R71). -/
def observeRun (moves : List HostMove) : Host.Outcome Observation Fault Refusal :=
  match Host.Core.run core moves.length (startRun moves) with
  | .next s => .next (observation s)
  | .fault r => .fault r
  | .refused r => .refused r

end Sys2Proof.Machine
end

