-- ==== Sys2Proof/Machine/Stream.lean ====
section
/-! DEFINITION. What a stream of commands means (43_framer.md R162, R163, R170): the command sequences of the pseudo-commands
ENCSTREAM and DECSTREAM (30_encoding.md R91), and the byte functions EncStream and DecStream. -/

namespace Sys2Proof.Machine

/-- Commands executed one after another, each complete before the next is taken (20_memory.md R51). -/
def execAll : List Instr → State → Answer
  | [], s => .next s
  | i :: is, s =>
    match exec i s with
    | .next t => execAll is t
    | .fault r => .fault r
    | .refused r => .refused r

/-- The padding length of m plaintext bytes, (3 - (m mod 3)) mod 3 (R170). -/
def streamPad (m : Nat) : Nat := (3 - m % 3) % 3

/-- The byte sequence read as chunks of three, each put through one block transform (R170). -/
def mapChunks (f : Block12 → Block12) : List Byte → List Byte
  | c0 :: c1 :: c2 :: rest => chunkBytes (mapChunk f ⟨c0, c1, c2⟩) ++ mapChunks f rest
  | _ => []

/-- EncStream (R170), for a block transform and a filler byte: the header, then the padded plaintext chunk by chunk. -/
def encStream (f : Block12 → Block12) (filler : Byte) (plain : List Byte) : List Byte :=
  BitVec.ofNat 8 (streamPad plain.length)
    :: mapChunks f (plain ++ List.replicate (streamPad plain.length) filler)

/-- DecStream (R170), for a block transform; `none` is its FormatError. The last chunk keeps 3 - C[0] bytes, and a header
alone gives no bytes. -/
def decStream (g : Block12 → Block12) : List Byte → Option (List Byte)
  | [] => none
  | header :: body =>
    if body.length % 3 ≠ 0 ∨ 2 < header.toNat then none
    else some ((mapChunks g body).take (body.length - header.toNat))

/-- The commands of an encryption stream: SENC p, an SBYTE for each byte, SEND (30_encoding.md R91). -/
def encStreamCommands (plain : List Byte) : List Instr :=
  .senc (BitVec.ofNat 8 (streamPad plain.length)) :: (plain.map Instr.sbyte ++ [.send])

/-- The commands of a decryption stream: SDEC, an SBYTE for each byte, SEND (30_encoding.md R91). -/
def decStreamCommands (cipher : List Byte) : List Instr :=
  .sdec :: (cipher.map Instr.sbyte ++ [.send])

end Sys2Proof.Machine
end

