-- ==== Sys2Proof/Machine/Assembler.lean ====
section
/-! DEFINITION. The assembler of 30_encoding.md R90 and the pseudo-commands of R91: a line of text to the command words it
writes. It is host software; the core sees only the words. -/

namespace Sys2Proof.Machine

/-- A line of assembly with its operands as written numbers (R90, R91). -/
inductive AsmStmt where
  /-- `NOP`. -/
  | nop
  /-- `SETKEY k`. -/
  | setkey (k : Nat)
  /-- `SCHED n`. -/
  | sched (n : Nat)
  /-- `ENC b`. -/
  | enc (b : Nat)
  /-- `DEC b`. -/
  | dec (b : Nat)
  /-- `ROUND b, k`. -/
  | round (b k : Nat)
  /-- `FEISTEL h, k`. -/
  | feistel (h k : Nat)
  /-- `EXPAND h`. -/
  | expand (h : Nat)
  /-- `CONFUSE x`. -/
  | confuse (x : Nat)
  /-- `SENC p`. -/
  | senc (p : Nat)
  /-- `SDEC`. -/
  | sdec
  /-- `SBYTE d`. -/
  | sbyte (d : Nat)
  /-- `SEND`. -/
  | send
  /-- `CLRERR`. -/
  | clrerr
  /-- `.word w`: any word, the only way to write a reserved opcode. -/
  | word (w : Nat)
  /-- Pseudo-command `LOADKEY k, n`. -/
  | loadkey (k n : Nat)
  /-- Pseudo-command `SBYTES d0, ..., dm`. -/
  | sbytes (ds : List Nat)
  /-- Pseudo-command `ENCSTREAM d0, ..., d(m-1)`, m ≥ 0. -/
  | encstream (ds : List Nat)
  /-- Pseudo-command `DECSTREAM c0, ..., c(m-1)`, m ≥ 0. -/
  | decstream (cs : List Nat)
  deriving DecidableEq, Repr

/-- A number fits a field of `width` bits (R90). -/
def fits (width n : Nat) : Bool := decide (n < 2 ^ width)

/-- Every operand fits its field's width; one that does not is an assembler error (R90). An operand that fits but that
the core refuses is well formed. DEDUCED, safe (log 11): SBYTES has at least one operand. -/
def asmWellFormed : AsmStmt → Bool
  | .nop | .sdec | .send | .clrerr => true
  | .setkey k => fits 12 k
  | .sched n => fits 8 n
  | .enc b => fits 12 b
  | .dec b => fits 12 b
  | .round b k => fits 12 b && fits 8 k
  | .feistel h k => fits 6 h && fits 8 k
  | .expand h => fits 6 h
  | .confuse x => fits 8 x
  | .senc p => fits 8 p
  | .sbyte d => fits 8 d
  | .word w => fits 32 w
  | .loadkey k n => fits 12 k && fits 8 n
  | .sbytes ds => !ds.isEmpty && ds.all (fits 8)
  | .encstream ds => ds.all (fits 8)
  | .decstream cs => cs.all (fits 8)

/-- The bytes written by a list of operands. -/
def asmBytes (ds : List Nat) : List Byte := ds.map (BitVec.ofNat 8)

/-- The words of a line: a command is one word (R86) with its ignored bits 0 (R84), `.word` is the word as it stands (R90),
and a pseudo-command is its expansion (R91). -/
def asmWords : AsmStmt → List Word
  | .nop => [encode .nop]
  | .setkey k => [encode (.setkey (BitVec.ofNat 12 k))]
  | .sched n => [encode (.sched (BitVec.ofNat 8 n))]
  | .enc b => [encode (.enc (BitVec.ofNat 12 b))]
  | .dec b => [encode (.dec (BitVec.ofNat 12 b))]
  | .round b k => [encode (.round (BitVec.ofNat 12 b) (BitVec.ofNat 8 k))]
  | .feistel h k => [encode (.feistel (BitVec.ofNat 6 h) (BitVec.ofNat 8 k))]
  | .expand h => [encode (.expand (BitVec.ofNat 6 h))]
  | .confuse x => [encode (.confuse (BitVec.ofNat 8 x))]
  | .senc p => [encode (.senc (BitVec.ofNat 8 p))]
  | .sdec => [encode .sdec]
  | .sbyte d => [encode (.sbyte (BitVec.ofNat 8 d))]
  | .send => [encode .send]
  | .clrerr => [encode .clrerr]
  | .word w => [BitVec.ofNat 32 w]
  | .loadkey k n => [encode (.setkey (BitVec.ofNat 12 k)), encode (.sched (BitVec.ofNat 8 n))]
  | .sbytes ds => (asmBytes ds).map fun d => encode (.sbyte d)
  | .encstream ds => (encStreamCommands (asmBytes ds)).map encode
  | .decstream cs => (decStreamCommands (asmBytes cs)).map encode

/-- The words of a well-formed line; `none` is an assembler error (R90). -/
def assemble (a : AsmStmt) : Option (List Word) := if asmWellFormed a then some (asmWords a) else none

/-- The digits in order of value, as the spec's text writes them (30_encoding.md R90: decimal and `0x` hexadecimal). -/
def digitOrder : List Char := "0123456789ABCDEF".toList

/-- A digit's value is its place among the first `base` digits. DESIGN CHOICE, safe (log 11): either case is read. -/
def digitValue (base : Nat) (c : Char) : Option Nat := (digitOrder.take base).findIdx? (· == c.toUpper)

/-- A digit string's value in a base, if it has a digit and every character is one. -/
def digitsValue (base : Nat) (cs : List Char) : Option Nat :=
  if cs.isEmpty then none
  else cs.foldlM (fun value c => (digitValue base c).map fun d => base * value + d) 0

/-- A number: decimal, or `0x` and hexadecimal digits (R90). -/
def readNumber : List Char → Option Nat
  | '0' :: 'x' :: digits => digitsValue 16 digits
  | digits => digitsValue 10 digits

/-- The text without the spaces at either end. -/
def trimSpaces (cs : List Char) : List Char :=
  ((cs.dropWhile (· == ' ')).reverse.dropWhile (· == ' ')).reverse

/-- The parts between commas. -/
def splitCommas : List Char → List (List Char)
  | [] => [[]]
  | c :: cs =>
    match splitCommas cs with
    | [] => [[c]]
    | first :: rest => if c = ',' then [] :: first :: rest else (c :: first) :: rest

/-- Numbers read from every part, or none if one of them is not a number. -/
def readAll : List (List Char) → Option (List Nat)
  | [] => some []
  | part :: parts =>
    match readNumber (trimSpaces part), readAll parts with
    | some n, some ns => some (n :: ns)
    | _, _ => none

/-- The operands: separated by a comma and optional spaces, or none at all (R90). -/
def readOperands (cs : List Char) : Option (List Nat) :=
  if trimSpaces cs = [] then some [] else readAll (splitCommas cs)

/-- A mnemonic and its operands to a statement, for the rows of R90 and R91; `none` for any other. -/
def statementOf (mnemonic : String) (ops : List Nat) : Option AsmStmt :=
  match mnemonic, ops with
  | "NOP", [] => some .nop
  | "SETKEY", [k] => some (.setkey k)
  | "SCHED", [n] => some (.sched n)
  | "ENC", [b] => some (.enc b)
  | "DEC", [b] => some (.dec b)
  | "ROUND", [b, k] => some (.round b k)
  | "FEISTEL", [h, k] => some (.feistel h k)
  | "EXPAND", [h] => some (.expand h)
  | "CONFUSE", [x] => some (.confuse x)
  | "SENC", [p] => some (.senc p)
  | "SDEC", [] => some .sdec
  | "SBYTE", [d] => some (.sbyte d)
  | "SEND", [] => some .send
  | "CLRERR", [] => some .clrerr
  | ".word", [w] => some (.word w)
  | "LOADKEY", [k, n] => some (.loadkey k n)
  | "SBYTES", d :: ds => some (.sbytes (d :: ds))
  | "ENCSTREAM", ds => some (.encstream ds)
  | "DECSTREAM", cs => some (.decstream cs)
  | _, _ => none

/-- One line of text to its words (R90): a `;` starts a comment running to the end of the line, and a line with nothing
else writes no word (DESIGN CHOICE, safe, log 11). `none` is an assembler error. -/
def assembleLine (line : List Char) : Option (List Word) :=
  let code := trimSpaces (line.takeWhile (· != ';'))
  if code = [] then some []
  else
    match readOperands (code.dropWhile (· != ' ')) with
    | none => none
    | some ops =>
      match statementOf (String.ofList (code.takeWhile (· != ' '))) ops with
      | none => none
      | some a => assemble a

/-- A program, one command per line, to the words the host writes to the command port in this order (R90, 20_memory.md
R51); `none` if some line is an assembler error. -/
def assembleProgram : List (List Char) → Option (List Word)
  | [] => some []
  | line :: lines =>
    match assembleLine line, assembleProgram lines with
    | some ws, some rest => some (ws ++ rest)
    | _, _ => none

/-- The host's interactions that write the words, in order (20_memory.md R51, R70). -/
def writeWords (ws : List Word) : List HostMove := ws.map HostMove.command

end Sys2Proof.Machine
end

