-- ==== Sys2Proof/WellFormed.lean ====
section
/-! DEFINITION. Which commands carry an operand the core accepts. The field widths of 30_encoding.md R82 are in the types
of Instr's constructors, so every term of Instr has an encoding and no further check of form is needed; the one check
the spec makes on an operand's value is R89, made at execution and not at decode. -/

namespace Sys2Proof

/-- The operand values of 30_encoding.md R89 are the only illegal ones: K12 above 0x1FF, N8 above 9, PAD8 above 2.
An instruction that fails this still decodes and still executes: its meaning records the error R89 names. -/
def Instr.operandsLegal : Instr → Bool
  | .setkey k12 => !Machine.keyTooLarge k12
  | .sched n8 => !Machine.tooManyRounds n8
  | .senc pad8 => !Machine.padTooLarge pad8
  | .nop | .enc _ | .dec _ | .round _ _ | .feistel _ _ | .expand _ | .confuse _ => true
  | .sdec | .sbyte _ | .send | .clrerr | .reservedE | .reservedF => true

end Sys2Proof
end

