-- ==== Sys2Proof/Safety.lean ====
section
/-! DEFINITION. The terms claims are stated in: what stays the same over a command, the invariants of the spec, the causes of
each error kind as 60_exceptions.md lists them, and when a stream's output is valid. -/

namespace Sys2Proof.Safety

open Sys2Proof.Machine

/-- KEY, NR, KV and RK are unchanged. -/
abbrev SameKeys (s t : State) : Prop := t.key = s.key ∧ t.nr = s.nr ∧ t.kv = s.kv ∧ t.rk = s.rk

/-- SMODE, PAD, BUF, BCNT, HOLD and HV are unchanged. -/
abbrev SameFramer (s t : State) : Prop :=
  t.smode = s.smode ∧ t.pad = s.pad ∧ t.buf = s.buf ∧ t.bcnt = s.bcnt ∧ t.hold = s.hold ∧ t.hv = s.hv

/-- OCNT and OUT are unchanged. -/
abbrev SameOutput (s t : State) : Prop := t.ocnt = s.ocnt ∧ t.out = s.out

/-- What the host has taken, has still to do, has read and holds is unchanged. -/
abbrev SameHost (s t : State) : Prop :=
  t.taken = s.taken ∧ t.script = s.script ∧ t.reads = s.reads ∧ t.got = s.got

/-- A stream is active (10_state.md R32). -/
abbrev StreamActive (s : State) : Prop := s.smode ≠ .idle

/-- The invariant of 10_state.md R27: whenever KV = 1, RK is the schedule of the current KEY for NR rounds. -/
def ScheduleMatchesKey (s : State) : Prop :=
  s.kv = true → ∀ i : Fin 9, s.rk[i] = if i.val < s.nr.toNat then roundKey s.key i.val else 0x00

/-- The invariants the spec's state rules give, together. -/
structure Inv (s : State) : Prop where
  /-- R27. -/
  schedule : ScheduleMatchesKey s
  /-- R24: the values 10 to 15 are never written. -/
  roundCount : s.nr.toNat ≤ 9
  /-- R29: the values 6 and 7 are never written. -/
  outcome : s.lasterr.toNat ≤ 5
  /-- R33: the value 3 is never written. -/
  padding : s.pad.toNat ≤ 2
  /-- R34: BCNT = 3 never stands. -/
  buffered : s.bcnt.toNat ≤ 2
  /-- R35: HV = 0 whenever SMODE ≠ DEC. -/
  holdOnlyInDec : s.hv = true → s.smode = .dec
  /-- R34: bytes are collected only in ENC and DEC. -/
  collectsInStream : s.bcnt.toNat ≠ 0 → s.smode = .enc ∨ s.smode = .dec
  /-- R25, R239: an active stream has a valid schedule. -/
  streamHasKeys : StreamActive s → s.kv = true
  /-- R37: OCNT counts OUT modulo 2^32. -/
  count : s.ocnt = BitVec.ofNat 32 s.out.length
  /-- R210: the kind LASTERR names has its STICKY bit set. -/
  recorded : ∀ e : ErrorKind, s.lasterr = errorCode e → s.sticky &&& stickyBit e = stickyBit e
  /-- R55: no byte is taken before it is emitted. -/
  takenEmitted : s.taken ≤ s.out.length
  /-- R55: since the last reset the host has taken the first bytes of OUT, in order. -/
  takenInOrder : ∃ before, s.got = before ++ s.out.take s.taken

/-- The causes of SequenceError (60_exceptions.md R204, cases 1 to 4). -/
def SequenceCause (i : Instr) (s : State) : Bool :=
  match i with
  | .setkey _ | .sched _ => decide (s.smode ≠ .idle)
  | .enc _ | .dec _ => !s.kv
  | .senc _ | .sdec => !s.kv || decide (s.smode ≠ .idle)
  | .sbyte _ | .send => decide (s.smode = .idle)
  | .nop | .round _ _ | .feistel _ _ | .expand _ | .confuse _ | .clrerr | .reservedE | .reservedF => false

/-- The causes of InvalidArgument (60_exceptions.md R203). -/
def ArgumentCause (i : Instr) : Bool :=
  match i with
  | .setkey k12 => decide (0x1FF < k12.toNat)
  | .senc pad8 => decide (2 < pad8.toNat)
  | .nop | .sched _ | .enc _ | .dec _ | .round _ _ | .feistel _ _ | .expand _ | .confuse _ => false
  | .sdec | .sbyte _ | .send | .clrerr | .reservedE | .reservedF => false

/-- The one cause of InvalidRoundCount (60_exceptions.md R201). -/
def RoundCountCause (i : Instr) : Bool :=
  match i with
  | .sched n8 => decide (9 < n8.toNat)
  | .nop | .setkey _ | .enc _ | .dec _ | .round _ _ | .feistel _ _ | .expand _ | .confuse _ => false
  | .senc _ | .sdec | .sbyte _ | .send | .clrerr | .reservedE | .reservedF => false

/-- The causes of FormatError (60_exceptions.md R202, cases 1 to 4). -/
def FormatCause (i : Instr) (s : State) : Bool :=
  match i, s.smode with
  | .sbyte data, .decHdr => decide (2 < data.toNat)
  | .send, .decHdr => true
  | .send, .dec => decide (s.bcnt ≠ 0)
  | .send, .enc => decide (s.pad.toNat ≠ (3 - s.bcnt.toNat) % 3)
  | _, _ => false

/-- The one cause of ReservedCommand (60_exceptions.md R205). -/
def ReservedCause (i : Instr) : Bool := decide (i.opcode = 0xE) || decide (i.opcode = 0xF)

/-- The error a command raises: the first check in the order of 60_exceptions.md R213, if any fails. -/
def firstError (i : Instr) (s : State) : Option ErrorKind :=
  if ReservedCause i then some .reservedCommand
  else if SequenceCause i s then some .sequenceError
  else if ArgumentCause i then some .invalidArgument
  else if RoundCountCause i then some .invalidRoundCount
  else if FormatCause i s then some .formatError
  else none

/-- LASTERR after a command that raises this error, or none (60_exceptions.md R200). -/
def outcomeCode : Option ErrorKind → BitVec 3
  | none => 0
  | some e => errorCode e

/-- STICKY after a command that raises this error, or none, from the STICKY before (60_exceptions.md R210). -/
def stickyAfter (before : BitVec 5) : Option ErrorKind → BitVec 5
  | none => before
  | some e => before ||| stickyBit e

/-- The commands that do not touch the framer (70_reset_and_hazards.md R241). -/
def OutsideFramer (i : Instr) : Bool :=
  match i with
  | .nop | .clrerr | .expand _ | .confuse _ | .feistel _ _ | .round _ _ | .enc _ | .dec _ | .reservedE | .reservedF => true
  | .setkey _ | .sched _ | .senc _ | .sdec | .sbyte _ | .send => false

/-- The slice of OUT a run of commands emitted, from the state before it to the state after it (20_memory.md R57). -/
def emittedSlice (s t : State) : List Byte := t.out.drop s.out.length

/-- A stream's output is its result only if its own SEND completed with LASTERR = 0 (43_framer.md R171): `t` is the state after
that SEND. -/
abbrev StreamResultValid (t : State) : Prop := t.lasterr = 0

end Sys2Proof.Safety
end

