-- ==== Sys2Proof/Certificates/Slice0/Obligations.lean ====
section
/-! DEFINITION. What is claimed of the machine, each statement citing the rules of spec/ it formalises. An equation
`exec i s = .next { s with ... }` states a command's effect and its frame at once: every field not named is unchanged. -/

open Sys2Proof Sys2Proof.Machine Sys2Proof.Safety

/-! ## Encoding -/

/-- Decoding the encoding of any command gives the command back: no operand bit is dropped, at any value (30_encoding.md
sections 1 and 2). Every term of Instr is well formed for its encoding, its field widths being in its type. -/
def Obligations.DecodeOfEncodeIsIdentity : Prop := ∀ i : Instr, decode (encode i) = i

/-- Encoding what a word decodes to gives the word back with its ignored bits 0 (30_encoding.md sections 1 and 2). -/
def Obligations.EncodeOfDecodeClearsIgnoredBits : Prop :=
  ∀ w : Word, encode (decode w) = w &&& usedBits (opField w)

/-- R84: two words that agree on OP and on the bits of that row's fields decode alike and step alike from every state; and
the assembler writes the ignored bits as 0. -/
def Obligations.IgnoredBitsChangeNothing : Prop :=
  (∀ w v : Word, (w ^^^ v) &&& usedBits (opField w) = 0 →
    decode w = decode v ∧
    ∀ (s : State) (rest : List HostMove),
      step { s with script := .command w :: rest } = step { s with script := .command v :: rest }) ∧
  ∀ i : Instr, encode i &&& ~~~(usedBits i.opcode) = 0

/-- Every word matches exactly one row of the opcode table, the row of the command it decodes to; every mask is 0xF0000000
and the row of OP has the value OP << 28 (30_encoding.md section 2; the spec marks R87 as derived). -/
def Obligations.EveryWordMatchesExactlyOneRow : Prop :=
  (∀ w : Word, ∃ r, opcodeTable.filter (fun q => q.matchesWord w) = [r] ∧ r.mnemonic = (decode w).mnemonic) ∧
  ∀ op : Fin 16, ∃ r, opcodeTable[op.val]? = some r ∧ r.mask = 0xF0000000 ∧ r.matchBits = BitVec.ofNat 32 (op.val <<< 28)

/-- The words the rules write out as examples, one per command at least, decode to the commands they stand for. -/
def Obligations.SpecExampleWordsDecode : Prop :=
  decode 0x00000000 = .nop ∧ decode 0x0FFFFFFF = .nop ∧
  decode 0x1000013B = .setkey 0x13B ∧ decode 0x1FFFF13B = .setkey 0x13B ∧
  decode 0x20000004 = .sched 4 ∧ decode 0x20000104 = .sched 4 ∧
  decode 0x300008B5 = .enc 0x8B5 ∧ decode 0x400004E5 = .dec 0x4E5 ∧
  decode 0x5003BD65 = .round 0xD65 0x3B ∧ decode 0x5FFFFD65 = .round 0xD65 0xFF ∧
  decode 0x600E3035 = .feistel 0x35 0xE3 ∧ decode 0x7FFFFFF5 = .expand 0x35 ∧
  decode 0x80000074 = .confuse 0x74 ∧ decode 0x90000002 = .senc 2 ∧ decode 0xA0000000 = .sdec ∧
  decode 0xB0000043 = .sbyte 0x43 ∧ decode 0xC0000000 = .send ∧ decode 0xD0000000 = .clrerr ∧
  decode 0xE0000000 = .reservedE ∧ decode 0xF0000000 = .reservedF

/-! ## The step and the host's interactions -/

/-- A step whose next host interaction writes a command word is exec of the decoded command, the interaction being done
(20_memory.md section 1, the command port; log 1). -/
def Obligations.StepRunsDecodedCommand : Prop :=
  ∀ (s : State) (w : Word) (rest : List HostMove), s.script = .command w :: rest →
    step s = exec (decode w) { s with script := rest }

/-- Words written one after another run as their commands one after another, each complete before the next is taken
(20_memory.md sections 1 and 3; log 1). -/
def Obligations.WrittenWordsRunInOrder : Prop :=
  ∀ (ws : List Word) (s : State) (rest : List HostMove), s.script = writeWords ws ++ rest →
    Host.Core.run core ws.length s = execAll (ws.map decode) { s with script := rest }

/-- A register read gives the read map's value for the state left by every command before it and changes nothing but the
host's own record; a second read of the same address gives the same value (20_memory.md sections 1 and 2; log 1). -/
def Obligations.RegisterReadHasNoSideEffect : Prop :=
  (∀ (s : State) (a : RegAddr) (rest : List HostMove), s.script = .readReg a :: rest →
    step s = .next { s with script := rest, reads := s.reads ++ [(a, readRegister a s)] }) ∧
  ∀ (s : State) (a : RegAddr) (rest : List HostMove), s.script = .readReg a :: .readReg a :: rest →
    Host.Core.run core 2 s =
      .next { s with script := rest, reads := s.reads ++ [(a, readRegister a s), (a, readRegister a s)] }

/-- The host takes the bytes of OUT one at a time in emission order; taking changes no core state and removes nothing from
OUT, and with no byte offered nothing is taken (20_memory.md section 1, the output byte port; the last clause is the
model's reading, log 12). -/
def Obligations.OutputBytesAreTakenInOrder : Prop :=
  (∀ (s : State) (b : Byte) (rest : List HostMove), s.script = .outReady :: rest → s.out[s.taken]? = some b →
    step s = .next { s with script := rest, taken := s.taken + 1, got := s.got ++ [b] }) ∧
  ∀ (s : State) (rest : List HostMove), s.script = .outReady :: rest → s.out[s.taken]? = none →
    step s = .next { s with script := rest }

/-- Reset replaces the core's state by the reset state and clears OUT, in any state; what the host has read and taken and
will do next is the host's (log 5). A command just before it leaves no effect (70_reset_and_hazards.md section 1). The STATUS image
after reset is 0 (10_state.md section 6, a sentence the spec marks as derived). -/
def Obligations.ResetReplacesCoreState : Prop :=
  (∀ (s : State) (rest : List HostMove), s.script = .reset :: rest →
    step s = .next { State.reset with script := rest, reads := s.reads, got := s.got }) ∧
  (∀ (s : State) (w : Word) (rest : List HostMove), s.script = .command w :: .reset :: rest →
    Host.Core.run core 2 s = step { s with script := .reset :: rest }) ∧
  statusImage State.reset = 0x00000000

/-- With no interaction pending, the core holds its state unchanged (60_exceptions.md section 3, power states). -/
def Obligations.IdleCoreHoldsItsState : Prop := ∀ s : State, s.script = [] → step s = .next s

/-- No error stops the core, and after any error it takes the next command normally (60_exceptions.md section 1, 20_memory.md
section 4). From every state a step answers a next state, and so does every command; a written word runs as its command
whatever LASTERR and STICKY hold; and a command does the same to every register but STICKY whatever errors are recorded. A run
of any host interactions ends with an observation, whose final state is the record its last step leaves. That every command
completes, in one step and without a fault, is the model's reading (log 7, log 9). -/
def Obligations.NoErrorStopsTheCore : Prop :=
  (∀ s : State, ∃ t, step s = .next t) ∧ (∀ (i : Instr) (s : State), ∃ t, exec i s = .next t) ∧
  (∀ (s : State) (w : Word) (rest : List HostMove), s.script = .command w :: rest →
    ∀ (c : BitVec 3) (k : BitVec 5),
      step { s with lasterr := c, sticky := k } =
        exec (decode w) { s with script := rest, lasterr := c, sticky := k }) ∧
  (∀ (i : Instr) (s : State) (c : BitVec 3) (k : BitVec 5),
    ∃ t u, exec i s = .next t ∧ exec i { s with lasterr := c, sticky := k } = .next u ∧
      u = { t with sticky := u.sticky }) ∧
  ∀ moves : List HostMove, ∃ s, Host.Core.run core moves.length (startRun moves) = .next s ∧ s.script = [] ∧
    observeRun moves = .next { out := s.out, reads := s.reads, final := coreRecord s }

/-! ## Reset and the register read port -/

/-- R41: the reset value of every register. -/
def Obligations.ResetValues : Prop :=
  State.reset.key = 0x000 ∧ State.reset.nr = 0 ∧ State.reset.kv = false ∧
  (∀ i : Fin 9, State.reset.rk[i] = 0x00) ∧ State.reset.result = 0x000 ∧ State.reset.lasterr = 0 ∧
  State.reset.sticky = 0b00000 ∧ State.reset.smode = .idle ∧ State.reset.pad = 0 ∧
  State.reset.buf = ⟨0x00, 0x00, 0x00⟩ ∧ State.reset.bcnt = 0 ∧ State.reset.hold = ⟨0x00, 0x00, 0x00⟩ ∧
  State.reset.hv = false ∧ State.reset.ocnt = 0x00000000 ∧ State.reset.out = []

/-- R38: every field of the STATUS image, and its reserved bits. -/
def Obligations.StatusImageLayout : Prop :=
  ∀ s : State,
    (readRegister 0x01 s).extractLsb' 0 3 = s.lasterr ∧
    (readRegister 0x01 s).getLsbD 3 = false ∧
    (readRegister 0x01 s).getLsbD 4 = s.sticky.getLsbD 0 ∧
    (readRegister 0x01 s).getLsbD 5 = s.sticky.getLsbD 1 ∧
    (readRegister 0x01 s).getLsbD 6 = s.sticky.getLsbD 2 ∧
    (readRegister 0x01 s).getLsbD 7 = s.sticky.getLsbD 3 ∧
    (readRegister 0x01 s).getLsbD 8 = s.sticky.getLsbD 4 ∧
    (readRegister 0x01 s).getLsbD 9 = s.kv ∧
    (readRegister 0x01 s).extractLsb' 10 2 =
      (match s.smode with | .idle => 0#2 | .enc => 1#2 | .decHdr => 2#2 | .dec => 3#2) ∧
    (readRegister 0x01 s).extractLsb' 12 2 = s.pad ∧
    (readRegister 0x01 s).extractLsb' 14 2 = s.bcnt ∧
    (readRegister 0x01 s).getLsbD 16 = s.hv ∧
    (readRegister 0x01 s).extractLsb' 17 15 = 0

/-- R53 (with R39): the value at every address of the register read map. -/
def Obligations.RegisterReadMap : Prop :=
  ∀ s : State,
    readRegister 0x00 s = 0x00000001 ∧ readRegister 0x01 s = statusImage s ∧
    readRegister 0x02 s = s.key.setWidth 32 ∧ readRegister 0x03 s = s.nr.setWidth 32 ∧
    readRegister 0x04 s = s.result.setWidth 32 ∧ readRegister 0x05 s = s.ocnt ∧
    readRegister 0x06 s = 0x00000000 ∧ readRegister 0x07 s = 0x00000000 ∧
    (∀ i : Fin 9, readRegister (BitVec.ofNat 5 (0x08 + i.val)) s = (s.rk[i]).setWidth 32) ∧
    ∀ a : RegAddr, 0x11 ≤ a.toNat → readRegister a s = 0x00000000

/-! ## BitOps -/

/-- R100: with p1..p6 the bits of h most significant first (p_k = h[6-k]), the output of expand, most significant first, is
p1 p2 p4 p3 p4 p3 p5 p6; and the source's vector. -/
def Obligations.ExpandIsItsBitList : Prop :=
  (∀ h : Half6,
    (List.range 8).map (fun j => (expand h).getLsbD (7 - j)) = [1, 2, 4, 3, 4, 3, 5, 6].map (fun k => h.getLsbD (6 - k))) ∧
  expand 0x35 = 0xE9

/-- expand is injective, and its outputs are exactly the bytes whose bits [5:4] equal bits [3:2] (40_bitops.md section 1; the
spec marks R102 as derived). -/
def Obligations.ExpandIsInjective : Prop :=
  (∀ g h : Half6, expand g = expand h → g = h) ∧
  ∀ x : Byte, (∃ h : Half6, expand h = x) ↔ x.extractLsb' 4 2 = x.extractLsb' 2 2

/-- confuse looks its two nibbles up independently, the high one in SBOX1 and the low one in SBOX2, and recombines them as
(left << 3) | right; for every pair of tables (40_bitops.md section 1). -/
def Obligations.ConfuseLooksUpBothNibbles : Prop :=
  ∀ (p : Params) (hi lo : BitVec 4),
    confuse p (hi ++ lo) =
      (p.sbox1[hi.toNat].setWidth 6 <<< 3) ||| p.sbox2[lo.toNat].setWidth 6

/-- The source's fixed vectors V2 to V7, V11 and V12, and the vectors section 2.7 lists as pinned only, for EVERY pair of tables that
agrees with the six pinned entries: none of them rests on the default entries of log 2 (95_test_vectors.md section 1.1). -/
def Obligations.SourceVectorsHoldForPinnedTables : Prop :=
  ∀ p : Params, pinned p →
    confuse p 0x74 = 0x07 ∧ confuse p 0x0A = 0x28 ∧
    feistel p 0x25 0x3B = 0x26 ∧ feistel p 0x35 0xE3 = 0x28 ∧
    feistelRound p 0xD65 0x3B = 0x953 ∧ feistelRound p 0x8B5 0xE3 = 0xD4A ∧
    (∀ keys : Nat → Byte, keys 0 = 0x9D → keys 1 = 0x3B →
      encrypt p 0x8B5 keys 2 = 0x4E5 ∧ decrypt p 0x4E5 keys 2 = 0x8B5 ∧
      encrypt p 0x8B5 keys 1 = 0x975 ∧ decrypt p 0x8B5 keys 1 = 0x975) ∧
    ∀ keys : Nat → Byte, keys 0 = 0xE3 → encrypt p 0x8B5 keys 1 = 0x2B5 ∧ decrypt p 0x8B5 keys 1 = 0x2B5

/-- R106: EXPAND, in every state. -/
def Obligations.ExpandCommand : Prop :=
  (∀ (h : Half6) (s : State),
    exec (.expand h) s = .next { s with result := (expand h).setWidth 12, lasterr := 0 }) ∧
  (∀ w : Word, opField w = 0x7 → decode w = .expand (w.extractLsb' 0 6)) ∧
  (∀ h : Half6, ((expand h).setWidth 12).extractLsb' 8 4 = 0#4) ∧
  (expand 0x00).setWidth 12 = 0x000#12 ∧ (expand 0x3F).setWidth 12 = 0x0FF#12 ∧
  decode 0x70000035 = .expand 0x35 ∧ (expand 0x35).setWidth 12 = 0x0E9#12

/-- CONFUSE, in every state, with its encoding and the source's two vectors (40_bitops.md section 2). The tables are the
machine's parameters (log 2); only the vectors fix entries of them. -/
def Obligations.ConfuseCommand : Prop :=
  (∀ (x : Byte) (s : State),
    exec (.confuse x) s = .next { s with result := (confuse params x).setWidth 12, lasterr := 0 }) ∧
  (∀ w : Word, opField w = 0x8 → decode w = .confuse (w.extractLsb' 0 8)) ∧
  (∀ x : Byte, ((confuse params x).setWidth 12).extractLsb' 6 6 = 0#6) ∧
  (confuse params 0x74).setWidth 12 = 0x007#12 ∧ (confuse params 0x0A).setWidth 12 = 0x028#12

/-- FEISTEL, in every state, with its encoding and the source's two vectors: the key is the operand, and KV and RK are not
read (40_bitops.md section 2). The tables are the machine's parameters (log 2). -/
def Obligations.FeistelCommand : Prop :=
  (∀ (h : Half6) (k : Byte) (s : State),
    exec (.feistel h k) s =
      .next { s with result := (confuse params (expand h ^^^ k)).setWidth 12, lasterr := 0 }) ∧
  (∀ w : Word, opField w = 0x6 → decode w = .feistel (w.extractLsb' 0 6) (w.extractLsb' 12 8)) ∧
  (∀ (h : Half6) (k : Byte), ((feistel params h k).setWidth 12).extractLsb' 6 6 = 0#6) ∧
  (∀ h : Half6, feistel params h (expand h) = confuse params 0x00) ∧
  (feistel params 0x25 0x3B).setWidth 12 = 0x026#12 ∧ (feistel params 0x35 0xE3).setWidth 12 = 0x028#12

/-! ## KeySchedule -/

/-- R120: RoundKey(key, i) is the top 8 bits of the key rotated left by i within 9 bits: with k1..k9 the bits of the key
most significant first (k_m = key[9-m]), it is the window of 8 bits from k(i+1) on, wrapping from k9 to k1; and the source's
two lists. -/
def Obligations.RoundKeyIsRotatingWindow : Prop :=
  (∀ (key : Key9) (i : Nat), i ≤ 8 →
    roundKey key i = (((key <<< i) ||| (key >>> (9 - i))).extractLsb' 1 8) ∧
    ∀ j, j < 8 → (roundKey key i).getLsbD (7 - j) = key.getLsbD (9 - ((i + j) % 9 + 1))) ∧
  (List.range 4).map (roundKey 0x13B) = [0x9D, 0x3B, 0x77, 0xEE] ∧
  (List.range 2).map (roundKey 0x1C7) = [0xE3, 0xC7]

/-- The key-schedule identities, and that the list for n rounds is the first n entries of the list for 9 (41_key_schedule.md
section 2 and the corner cases of SCHED; the spec marks both as derived). -/
def Obligations.RoundKeyIdentities : Prop :=
  (∀ i, i ≤ 8 → roundKey 0x000 i = 0x00 ∧ roundKey 0x1FF i = 0xFF) ∧
  (∀ (key : Key9) (i : Nat), i ≤ 7 → (roundKey key i).extractLsb' 0 7 = (roundKey key (i + 1)).extractLsb' 1 7) ∧
  (∀ key : Key9, rotl9 key 9 = key) ∧
  ∀ (key : Key9) (n : Nat) (i : Fin 9), n ≤ 9 →
    (schedule key n)[i] = if i.val < n then (schedule key 9)[i] else 0x00

/-- R122: SETKEY, in every state: accepted, refused during a stream, refused for its value; its encoding; its corner
cases. -/
def Obligations.SetkeyCommand : Prop :=
  (∀ (k : BitVec 12) (s : State), s.smode = .idle → k.toNat ≤ 0x1FF →
    exec (.setkey k) s = .next { s with key := k.setWidth 9, kv := false, lasterr := 0 }) ∧
  (∀ (k : BitVec 12) (s : State), s.smode ≠ .idle →
    exec (.setkey k) s = .next { s with lasterr := 4, sticky := s.sticky ||| 0b01000 }) ∧
  (∀ (k : BitVec 12) (s : State), s.smode = .idle → 0x1FF < k.toNat →
    exec (.setkey k) s = .next { s with lasterr := 3, sticky := s.sticky ||| 0b00100 }) ∧
  (∀ w : Word, opField w = 0x1 → decode w = .setkey (w.extractLsb' 0 12)) ∧
  (∀ i, i ≤ 8 → roundKey 0x000 i = 0x00) ∧
  decode 0x1000013B = .setkey 0x13B

/-- R123: SCHED, in every state: accepted, refused during a stream, refused for its value with KV cleared; repeating it
gives the same state; its encoding; its examples. -/
def Obligations.SchedCommand : Prop :=
  (∀ (n : Byte) (s : State), s.smode = .idle → n.toNat ≤ 9 →
    ∃ t, exec (.sched n) s = .next t ∧
      (∀ i : Fin 9, t.rk[i] = if i.val < n.toNat then roundKey s.key i.val else 0x00) ∧
      t = { s with rk := t.rk, nr := n.setWidth 4, kv := true, lasterr := 0 } ∧
      exec (.sched n) t = .next t) ∧
  (∀ (n : Byte) (s : State), s.smode ≠ .idle →
    exec (.sched n) s = .next { s with lasterr := 4, sticky := s.sticky ||| 0b01000 }) ∧
  (∀ (n : Byte) (s : State), s.smode = .idle → 9 < n.toNat →
    exec (.sched n) s = .next { s with kv := false, lasterr := 1, sticky := s.sticky ||| 0b00001 }) ∧
  (∀ w : Word, opField w = 0x2 → decode w = .sched (w.extractLsb' 0 8)) ∧
  (∃ t, execAll [.setkey 0x13B, .sched 4] State.reset = .next t ∧
    t.rk = #v[0x9D, 0x3B, 0x77, 0xEE, 0, 0, 0, 0, 0] ∧ t.nr = 4 ∧ t.kv = true) ∧
  ∃ t, execAll [.setkey 0x1C7, .sched 10] State.reset = .next t ∧ t.lasterr = 1 ∧ t.kv = false

/-- Whenever KV = 1, RK is the schedule of the current KEY for NR rounds: every step keeps it, from every state (10_state.md
section 2; the spec marks R27 as derived). -/
def Obligations.ScheduleMatchesKeyIsKept : Prop :=
  ∀ s t : State, ScheduleMatchesKey s → step s = .next t → ScheduleMatchesKey t

/-- The cipher and the chunk transforms read RK[0..NR-1] and NR and nothing else of the state: KEY, the entries from NR on
and every other register are no input (42_cipher.md section 3, 41_key_schedule.md section 2). -/
def Obligations.CipherReadsOnlyTheSchedule : Prop :=
  ∀ s t : State, s.nr = t.nr → (∀ i, i < s.nr.toNat → roundKeyEntry s i = roundKeyEntry t i) →
    (∀ b : Block12, encBlock s b = encBlock t b ∧ decBlock s b = decBlock t b) ∧
    ∀ c : Chunk, encChunk s c = encChunk t c ∧ decChunk s c = decChunk t c

/-! ## FeistelCipher -/

/-- The loop of Crypt is the rounds of feistel_round in key order, and one swap of the halves after them (42_cipher.md section 1),
for every pair of tables, every keys and every positive count. -/
def Obligations.CryptIsRoundsThenSwap : Prop :=
  ∀ (p : Params) (b : Block12) (keys : Nat → Byte) (n : Nat), 0 < n →
    encrypt p b keys n =
      (let x := (List.range n).foldl (fun y i => feistelRound p y (keys i)) b
       x.extractLsb' 0 6 ++ x.extractLsb' 6 6) ∧
    decrypt p b keys n =
      (let x := (List.range n).reverse.foldl (fun y i => feistelRound p y (keys i)) b
       x.extractLsb' 0 6 ++ x.extractLsb' 6 6)

/-- R142: zero rounds is the identity with no swap, in the transforms and in the commands. -/
def Obligations.ZeroRoundsIsIdentity : Prop :=
  (∀ (p : Params) (b : Block12) (keys : Nat → Byte), encrypt p b keys 0 = b ∧ decrypt p b keys 0 = b) ∧
  ∀ (b : Block12) (s : State), s.kv = true → s.nr = 0 →
    exec (.enc b) s = .next { s with result := b, lasterr := 0 } ∧
    exec (.dec b) s = .next { s with result := b, lasterr := 0 }

/-- Decrypt undoes Encrypt and Encrypt undoes Decrypt, for every block, every keys, every count and every pair of tables
(42_cipher.md section 3; the spec marks this form of R146 as derived). -/
def Obligations.DecryptInvertsEncrypt : Prop :=
  ∀ (p : Params) (b : Block12) (keys : Nat → Byte) (n : Nat),
    decrypt p (encrypt p b keys n) keys n = b ∧ encrypt p (decrypt p b keys n) keys n = b

/-- ENC followed by DEC of its RESULT returns the block, and DEC followed by ENC too, in every state with a valid schedule
(42_cipher.md section 3, R146 in hardware terms). -/
def Obligations.DecCommandInvertsEncCommand : Prop :=
  ∀ (b : Block12) (s : State), s.kv = true →
    (∃ t u, exec (.enc b) s = .next t ∧ exec (.dec t.result) t = .next u ∧ u.result = b) ∧
    ∃ t u, exec (.dec b) s = .next t ∧ exec (.enc t.result) t = .next u ∧ u.result = b

/-- Where all the keys used are equal, and so with one round, encryption and decryption are the same function (42_cipher.md
section 2, corner cases of DEC; 95_test_vectors.md section 2.7). -/
def Obligations.EqualKeysMakeDecEqualEnc : Prop :=
  ∀ (p : Params) (b : Block12) (keys : Nat → Byte) (n : Nat), (∀ i, i < n → keys i = keys 0) →
    decrypt p b keys n = encrypt p b keys n

/-- R143: ENC, in every state: with a valid schedule, and without one; its encoding; its example. -/
def Obligations.EncCommand : Prop :=
  (∀ (b : Block12) (s : State), s.kv = true →
    exec (.enc b) s = .next { s with
      result := if s.nr = 0 then b else crypt params b (roundKeyEntry s) s.nr.toNat .fwd, lasterr := 0 }) ∧
  (∀ (b : Block12) (s : State), s.kv = false →
    exec (.enc b) s = .next { s with lasterr := 4, sticky := s.sticky ||| 0b01000 }) ∧
  (∀ w : Word, opField w = 0x3 → decode w = .enc (w.extractLsb' 0 12)) ∧
  ∃ t, execAll [.setkey 0x13B, .sched 2, .enc 0x8B5] State.reset = .next t ∧ t.result = 0x4E5

/-- DEC, in every state: with a valid schedule, and without one; its encoding; the same function as ENC with one round, which
the spec marks as derived; its example (42_cipher.md section 2). -/
def Obligations.DecCommand : Prop :=
  (∀ (b : Block12) (s : State), s.kv = true →
    exec (.dec b) s = .next { s with
      result := if s.nr = 0 then b else crypt params b (roundKeyEntry s) s.nr.toNat .rev, lasterr := 0 }) ∧
  (∀ (b : Block12) (s : State), s.kv = false →
    exec (.dec b) s = .next { s with lasterr := 4, sticky := s.sticky ||| 0b01000 }) ∧
  (∀ w : Word, opField w = 0x4 → decode w = .dec (w.extractLsb' 0 12)) ∧
  (∀ (b : Block12) (s : State), s.nr = 1 → exec (.dec b) s = exec (.enc b) s) ∧
  ∃ t, execAll [.setkey 0x13B, .sched 2, .dec 0x4E5] State.reset = .next t ∧ t.result = 0x8B5

/-- R145 with the round of R140: ROUND, in every state: the new left half is the old right half, the new right half is the
old left half XOR feistel; no final swap, and KV is not read; its encoding; its two examples. -/
def Obligations.RoundCommand : Prop :=
  (∀ (b : Block12) (k : Byte) (s : State),
    ∃ t, exec (.round b k) s = .next t ∧ t = { s with result := t.result, lasterr := 0 } ∧
      t.result.extractLsb' 6 6 = b.extractLsb' 0 6 ∧
      t.result.extractLsb' 0 6 = b.extractLsb' 6 6 ^^^ feistel params (b.extractLsb' 0 6) k) ∧
  (∀ w : Word, opField w = 0x5 → decode w = .round (w.extractLsb' 0 12) (w.extractLsb' 12 8)) ∧
  decode 0x5003BD65 = .round 0xD65 0x3B ∧ feistelRound params 0xD65 0x3B = 0x953 ∧
  decode 0x500E38B5 = .round 0x8B5 0xE3 ∧ feistelRound params 0x8B5 0xE3 = 0xD4A

/-! ## BlockFramer -/

/-- Packing is big-endian, HI = {c0, c1[7:4]} and LO = {c1[3:0], c2}, and unpacking is its exact inverse, both ways
(43_framer.md section 1; the byte order is the spec's own choice, log 8). -/
def Obligations.UnpackInvertsPack : Prop :=
  (∀ c : Chunk, (pack c).1 = c.b0 ++ c.b1.extractLsb' 4 4 ∧ (pack c).2 = c.b1.extractLsb' 0 4 ++ c.b2) ∧
  (∀ c : Chunk, unpack (pack c) = c) ∧ ∀ hl : Block12 × Block12, pack (unpack hl) = hl

/-- DecChunk undoes EncChunk and EncChunk undoes DecChunk, under the schedule of any state (43_framer.md section 1). -/
def Obligations.DecChunkInvertsEncChunk : Prop :=
  ∀ (s : State) (c : Chunk), decChunk s (encChunk s c) = c ∧ encChunk s (decChunk s c) = c

/-- R165: SENC, in every state: opened with its header emitted, refused by the sequence, refused for its value; its
encoding; the stream of an empty plaintext. -/
def Obligations.SencCommand : Prop :=
  (∀ (p : Byte) (s : State), s.smode = .idle → s.kv = true → p.toNat ≤ 2 →
    exec (.senc p) s = .next { s with
      pad := p.setWidth 2, bcnt := 0, hv := false, smode := .enc, out := s.out ++ [p], ocnt := s.ocnt + 1,
      lasterr := 0 }) ∧
  (∀ (p : Byte) (s : State), (s.smode ≠ .idle ∨ s.kv = false) →
    exec (.senc p) s = .next { s with lasterr := 4, sticky := s.sticky ||| 0b01000 }) ∧
  (∀ (p : Byte) (s : State), s.smode = .idle → s.kv = true → 2 < p.toNat →
    exec (.senc p) s = .next { s with lasterr := 3, sticky := s.sticky ||| 0b00100 }) ∧
  (∀ w : Word, opField w = 0x9 → decode w = .senc (w.extractLsb' 0 8)) ∧
  ∀ s : State, s.smode = .idle → s.kv = true →
    ∃ t, execAll [.senc 0, .send] s = .next t ∧ t.out = s.out ++ [0x00] ∧ t.smode = .idle ∧ t.lasterr = 0

/-- R166: SDEC, in every state: opened with nothing emitted, or refused by the sequence; its encoding. -/
def Obligations.SdecCommand : Prop :=
  (∀ s : State, s.smode = .idle → s.kv = true →
    exec .sdec s = .next { s with pad := 0, bcnt := 0, hv := false, smode := .decHdr, lasterr := 0 }) ∧
  (∀ s : State, (s.smode ≠ .idle ∨ s.kv = false) →
    exec .sdec s = .next { s with lasterr := 4, sticky := s.sticky ||| 0b01000 }) ∧
  ∀ w : Word, opField w = 0xA → decode w = .sdec

/-- R167: SBYTE, by mode: no stream; the header byte, taken or refused with the stream aborted; the first and second byte of
a chunk; the third, encrypted and emitted at once, or decrypted and held back while the chunk held before is emitted. The
third byte is the rule's 'else', BCNT not below 2: BCNT = 2, since BCNT = 3 never stands (InvariantIsKeptByEveryStep). -/
def Obligations.SbyteCommand : Prop :=
  (∀ (d : Byte) (s : State), s.smode = .idle →
    exec (.sbyte d) s = .next { s with lasterr := 4, sticky := s.sticky ||| 0b01000 }) ∧
  (∀ (d : Byte) (s : State), s.smode = .decHdr → d.toNat ≤ 2 →
    exec (.sbyte d) s = .next { s with pad := d.setWidth 2, smode := .dec, lasterr := 0 }) ∧
  (∀ (d : Byte) (s : State), s.smode = .decHdr → 2 < d.toNat →
    exec (.sbyte d) s = .next { s with
      smode := .idle, bcnt := 0, hv := false, lasterr := 2, sticky := s.sticky ||| 0b00010 }) ∧
  (∀ (d : Byte) (s : State), (s.smode = .enc ∨ s.smode = .dec) → s.bcnt = 0 →
    exec (.sbyte d) s = .next { s with buf := { s.buf with b0 := d }, bcnt := 1, lasterr := 0 }) ∧
  (∀ (d : Byte) (s : State), (s.smode = .enc ∨ s.smode = .dec) → s.bcnt = 1 →
    exec (.sbyte d) s = .next { s with buf := { s.buf with b1 := d }, bcnt := 2, lasterr := 0 }) ∧
  (∀ (d : Byte) (s : State), s.smode = .enc → 2 ≤ s.bcnt.toNat →
    exec (.sbyte d) s = .next { s with
      bcnt := 0, out := s.out ++ chunkBytes (encChunk s ⟨s.buf.b0, s.buf.b1, d⟩), ocnt := s.ocnt + 3,
      lasterr := 0 }) ∧
  (∀ (d : Byte) (s : State), s.smode = .dec → 2 ≤ s.bcnt.toNat → s.hv = false →
    exec (.sbyte d) s = .next { s with
      bcnt := 0, hold := decChunk s ⟨s.buf.b0, s.buf.b1, d⟩, hv := true, lasterr := 0 }) ∧
  (∀ (d : Byte) (s : State), s.smode = .dec → 2 ≤ s.bcnt.toNat → s.hv = true →
    exec (.sbyte d) s = .next { s with
      bcnt := 0, out := s.out ++ [s.hold.b0, s.hold.b1, s.hold.b2], ocnt := s.ocnt + 3,
      hold := decChunk s ⟨s.buf.b0, s.buf.b1, d⟩, hv := true, lasterr := 0 }) ∧
  ∀ w : Word, opField w = 0xB → decode w = .sbyte (w.extractLsb' 0 8)

/-- R168: SEND, by mode: no stream; no header seen; an encryption stream whose header does not match, or that ends on a whole
chunk, or on one or two bytes filled with 0x00; a decryption stream that ends inside a chunk, or with no chunk, or with a
held chunk of which 3 - PAD bytes are emitted. The pairs (BCNT, PAD) that pass the check in ENC are the three named; BCNT = 3
never stands (InvariantIsKeptByEveryStep). -/
def Obligations.SendCommand : Prop :=
  (∀ s : State, s.smode = .idle →
    exec .send s = .next { s with lasterr := 4, sticky := s.sticky ||| 0b01000 }) ∧
  (∀ s : State, s.smode = .decHdr →
    exec .send s = .next { s with
      smode := .idle, bcnt := 0, hv := false, lasterr := 2, sticky := s.sticky ||| 0b00010 }) ∧
  (∀ s : State, s.smode = .enc → s.pad.toNat ≠ (3 - s.bcnt.toNat) % 3 →
    exec .send s = .next { s with
      smode := .idle, bcnt := 0, hv := false, lasterr := 2, sticky := s.sticky ||| 0b00010 }) ∧
  (∀ s : State, s.smode = .enc → s.bcnt = 0 → s.pad = 0 →
    exec .send s = .next { s with smode := .idle, bcnt := 0, hv := false, lasterr := 0 }) ∧
  (∀ s : State, s.smode = .enc → s.bcnt = 1 → s.pad = 2 →
    exec .send s = .next { s with
      buf := ⟨s.buf.b0, 0x00, 0x00⟩, out := s.out ++ chunkBytes (encChunk s ⟨s.buf.b0, 0x00, 0x00⟩),
      ocnt := s.ocnt + 3, smode := .idle, bcnt := 0, hv := false, lasterr := 0 }) ∧
  (∀ s : State, s.smode = .enc → s.bcnt = 2 → s.pad = 1 →
    exec .send s = .next { s with
      buf := ⟨s.buf.b0, s.buf.b1, 0x00⟩, out := s.out ++ chunkBytes (encChunk s ⟨s.buf.b0, s.buf.b1, 0x00⟩),
      ocnt := s.ocnt + 3, smode := .idle, bcnt := 0, hv := false, lasterr := 0 }) ∧
  (∀ s : State, s.smode = .dec → s.bcnt ≠ 0 →
    exec .send s = .next { s with
      smode := .idle, bcnt := 0, hv := false, lasterr := 2, sticky := s.sticky ||| 0b00010 }) ∧
  (∀ s : State, s.smode = .dec → s.bcnt = 0 → s.hv = false →
    exec .send s = .next { s with smode := .idle, bcnt := 0, hv := false, lasterr := 0 }) ∧
  (∀ s : State, s.smode = .dec → s.bcnt = 0 → s.hv = true →
    exec .send s = .next { s with
      out := s.out ++ [s.hold.b0, s.hold.b1, s.hold.b2].take (3 - s.pad.toNat),
      ocnt := s.ocnt + BitVec.ofNat 32 (3 - s.pad.toNat), smode := .idle, bcnt := 0, hv := false, lasterr := 0 }) ∧
  ∀ w : Word, opField w = 0xC → decode w = .send

/-- An encryption stream's commands emit exactly EncStream of the plaintext under the schedule, for every plaintext and from
every state in which no stream is active and KV = 1; the stream's result is valid, and KEY, NR, KV, RK and RESULT are
unchanged (43_framer.md section 3; the spec marks R170 as derived). -/
def Obligations.EncryptionStreamEmitsEncStream : Prop :=
  ∀ (s : State) (plain : List Byte), s.smode = .idle → s.kv = true →
    ∃ t, execAll (encStreamCommands plain) s = .next t ∧
      t.out = s.out ++ encStream (encBlock s) 0x00 plain ∧
      t.ocnt = s.ocnt + BitVec.ofNat 32 (encStream (encBlock s) 0x00 plain).length ∧
      t.smode = .idle ∧ StreamResultValid t ∧ SameKeys s t ∧ t.result = s.result ∧ t.sticky = s.sticky

/-- A decryption stream's commands emit exactly DecStream of the ciphertext under the schedule when DecStream does not fail;
the stream's result is valid (43_framer.md section 3; the spec marks R170 as derived). -/
def Obligations.DecryptionStreamEmitsDecStream : Prop :=
  ∀ (s : State) (cipher plain : List Byte), s.smode = .idle → s.kv = true →
    decStream (decBlock s) cipher = some plain →
    ∃ t, execAll (decStreamCommands cipher) s = .next t ∧ t.out = s.out ++ plain ∧
      t.smode = .idle ∧ StreamResultValid t ∧ SameKeys s t ∧ t.result = s.result ∧ t.sticky = s.sticky

/-- When DecStream fails, some command of the stream raises FormatError, and the stream's SEND does not complete with LASTERR
= 0, so its result is not valid (43_framer.md section 3; the spec marks R170 as derived). -/
def Obligations.FailingDecStreamRaisesFormatError : Prop :=
  ∀ (s : State) (cipher : List Byte), s.smode = .idle → s.kv = true → decStream (decBlock s) cipher = none →
    (∃ (before : List Instr) (i : Instr) (after : List Instr) (u v : State),
      decStreamCommands cipher = before ++ i :: after ∧ execAll before s = .next u ∧ exec i u = .next v ∧
      v.lasterr = 2 ∧ v.smode = .idle) ∧
    ∃ t, execAll (decStreamCommands cipher) s = .next t ∧ ¬ StreamResultValid t ∧ t.smode = .idle

/-- Decrypting what an encryption stream emitted gives the plaintext back, for every plaintext and every schedule: as
functions, for every pair of inverse block transforms and every filler, and as commands run one stream after the
other (43_framer.md section 3; the spec marks R172 as derived). -/
def Obligations.StreamRoundTrip : Prop :=
  (∀ (f g : Block12 → Block12) (filler : Byte) (plain : List Byte), (∀ b, g (f b) = b) →
    decStream g (encStream f filler plain) = some plain) ∧
  ∀ (s : State) (plain : List Byte), s.smode = .idle → s.kv = true →
    ∃ t u, execAll (encStreamCommands plain) s = .next t ∧
      execAll (decStreamCommands (emittedSlice s t)) t = .next u ∧
      emittedSlice t u = plain ∧ StreamResultValid u

/-! ## Errors, control and whole-machine rules -/

/-- R213: a command raises at most one error, the first check that fails in the order ReservedCommand, SequenceError,
InvalidArgument, then InvalidRoundCount or FormatError; LASTERR is its code, or 0; and STICKY gains its bit. With the rule's three
examples. -/
def Obligations.OutcomeIsFirstFailingCheck : Prop :=
  (∀ (i : Instr) (s t : State), exec i s = .next t →
    t.lasterr = outcomeCode (firstError i s) ∧
    (i ≠ .clrerr → t.sticky = stickyAfter s.sticky (firstError i s))) ∧
  (∀ s : State, StreamActive s → firstError (.setkey 0x200) s = some .sequenceError) ∧
  (∀ s : State, StreamActive s → firstError (.sched 10) s = some .sequenceError ∧
    ∃ t, exec (.sched 10) s = .next t ∧ t.kv = s.kv) ∧
  ∀ s : State, s.kv = false → firstError (.senc 3) s = some .sequenceError

/-- R204: SequenceError is raised in exactly the four listed cases, never aborts a stream, and changes no state but LASTERR and
STICKY. -/
def Obligations.SequenceErrorCauses : Prop :=
  ∀ (i : Instr) (s t : State), exec i s = .next t →
    (t.lasterr = 4 ↔
      ((∃ k, i = .setkey k) ∨ ∃ n, i = .sched n) ∧ s.smode ≠ .idle ∨
      ((∃ b, i = .enc b) ∨ (∃ b, i = .dec b) ∨ (∃ p, i = .senc p) ∨ i = .sdec) ∧ s.kv = false ∨
      ((∃ p, i = .senc p) ∨ i = .sdec) ∧ s.smode ≠ .idle ∨
      ((∃ d, i = .sbyte d) ∨ i = .send) ∧ s.smode = .idle) ∧
    (t.lasterr = 4 → t = { s with lasterr := 4, sticky := s.sticky ||| 0b01000 })

/-- R202: FormatError is raised in exactly the four listed cases, and each aborts the stream: SMODE, BCNT and HV are cleared
and nothing else but LASTERR and STICKY changes, so the bytes emitted stay and a held chunk is never emitted. -/
def Obligations.FormatErrorCauses : Prop :=
  ∀ (i : Instr) (s t : State), exec i s = .next t →
    (t.lasterr = 2 ↔
      (∃ d : Byte, i = .sbyte d ∧ s.smode = .decHdr ∧ 2 < d.toNat) ∨
      (i = .send ∧ s.smode = .decHdr) ∨
      (i = .send ∧ s.smode = .dec ∧ s.bcnt ≠ 0) ∨
      (i = .send ∧ s.smode = .enc ∧ s.pad.toNat ≠ (3 - s.bcnt.toNat) % 3)) ∧
    (t.lasterr = 2 → t = { s with
      smode := .idle, bcnt := 0, hv := false, lasterr := 2, sticky := s.sticky ||| 0b00010 })

/-- R211: a command that raises an error writes nothing but LASTERR and STICKY, except that SCHED with N8 > 9 clears KV and a
FormatError runs abort_stream. -/
def Obligations.ErrorsArePrecise : Prop :=
  ∀ (i : Instr) (s t : State), exec i s = .next t → t.lasterr ≠ 0 →
    t.result = s.result ∧ t.key = s.key ∧ t.nr = s.nr ∧ t.rk = s.rk ∧ t.buf = s.buf ∧ t.hold = s.hold ∧
    t.pad = s.pad ∧ SameOutput s t ∧ SameHost s t ∧
    (t.kv = s.kv ∨ t.kv = false ∧ t.lasterr = 1 ∧ ∃ n : Byte, i = .sched n ∧ 9 < n.toNat) ∧
    (SameFramer s t ∨ t.lasterr = 2 ∧ t.smode = .idle ∧ t.bcnt = 0 ∧ t.hv = false)

/-- R30: the bit STICKY[c-1] is set when a command raises the kind with code c, and only CLRERR and reset clear a bit. -/
def Obligations.OnlyClrerrAndResetClearSticky : Prop :=
  (∀ (i : Instr) (s t : State), exec i s = .next t → t.lasterr ≠ 0 →
    t.sticky.getLsbD (t.lasterr.toNat - 1) = true) ∧
  (∀ s t : State, step s = .next t → ∀ j, s.sticky.getLsbD j = true → t.sticky.getLsbD j = false →
    (∃ w rest, s.script = .command w :: rest ∧ decode w = .clrerr) ∨ ∃ rest, s.script = .reset :: rest) ∧
  (∀ s : State, ∃ t, exec .clrerr s = .next t ∧ t.sticky = 0b00000) ∧ State.reset.sticky = 0b00000

/-- No command writes a register that is not on its line of the table of writers (10_state.md section 5; the spec marks R40 as
derived), and no command changes what the host holds. So a command that does not touch the framer leaves an active stream as it
was (70_reset_and_hazards.md section 3; the spec marks R241 as derived). -/
def Obligations.OnlyListedWritersWriteARegister : Prop :=
  (∀ (i : Instr) (s t : State), exec i s = .next t →
    (t.key ≠ s.key → t.lasterr = 0 ∧ ∃ k, i = .setkey k) ∧
    (t.kv ≠ s.kv →
      (t.lasterr = 0 ∧ t.kv = false ∧ ∃ k, i = .setkey k) ∨
      (∃ n, i = .sched n) ∧ (t.lasterr = 0 ∧ t.kv = true ∨ t.lasterr = 1 ∧ t.kv = false)) ∧
    (t.nr ≠ s.nr ∨ t.rk ≠ s.rk → t.lasterr = 0 ∧ ∃ n, i = .sched n) ∧
    (t.result ≠ s.result → t.lasterr = 0 ∧
      ((∃ h, i = .expand h) ∨ (∃ x, i = .confuse x) ∨ (∃ h k, i = .feistel h k) ∨ (∃ b k, i = .round b k) ∨
        (∃ b, i = .enc b) ∨ ∃ b, i = .dec b)) ∧
    (t.sticky ≠ s.sticky → t.lasterr ≠ 0 ∨ i = .clrerr) ∧
    (t.smode ≠ s.smode ∨ t.bcnt ≠ s.bcnt ∨ t.hv ≠ s.hv → (t.lasterr = 0 ∨ t.lasterr = 2) ∧
      ((∃ p, i = .senc p) ∨ i = .sdec ∨ (∃ d, i = .sbyte d) ∨ i = .send)) ∧
    (t.pad ≠ s.pad → t.lasterr = 0 ∧
      ((∃ p, i = .senc p) ∨ i = .sdec ∨ (∃ d, i = .sbyte d) ∧ s.smode = .decHdr)) ∧
    (t.buf ≠ s.buf → (∃ d, i = .sbyte d) ∧ (s.smode = .enc ∨ s.smode = .dec) ∨ i = .send ∧ s.smode = .enc) ∧
    (t.hold ≠ s.hold → (∃ d, i = .sbyte d) ∧ s.smode = .dec ∧ 2 ≤ s.bcnt.toNat) ∧
    (t.out ≠ s.out ∨ t.ocnt ≠ s.ocnt → (∃ p, i = .senc p) ∨ (∃ d, i = .sbyte d) ∨ i = .send) ∧
    SameHost s t) ∧
  ∀ (i : Instr) (s t : State), OutsideFramer i = true → exec i s = .next t → SameFramer s t

/-- R239: during a stream no command changes KEY or the schedule: SETKEY and SCHED are refused with SequenceError. -/
def Obligations.KeysAreLockedDuringStream : Prop :=
  (∀ (i : Instr) (s t : State), StreamActive s → exec i s = .next t → SameKeys s t) ∧
  ∀ (k : BitVec 12) (n : Byte) (s : State), StreamActive s →
    (∃ t, exec (.setkey k) s = .next t ∧ t.lasterr = 4) ∧ ∃ t, exec (.sched n) s = .next t ∧ t.lasterr = 4

/-- Every command only appends to OUT, at most three bytes, and counts them modulo 2^32; only SENC, SBYTE and SEND append
(20_memory.md section 1, 10_state.md section 4, 70_reset_and_hazards.md section 4). -/
def Obligations.CommandsOnlyAppendToOut : Prop :=
  ∀ (i : Instr) (s t : State), exec i s = .next t →
    ∃ bytes, t.out = s.out ++ bytes ∧ t.ocnt = s.ocnt + BitVec.ofNat 32 bytes.length ∧ bytes.length ≤ 3 ∧
      (bytes ≠ [] → (∃ p, i = .senc p) ∨ (∃ d, i = .sbyte d) ∨ i = .send)

/-- R190 and R191: NOP writes only LASTERR ← 0; CLRERR writes only STICKY ← 0 and LASTERR ← 0; both in every state, so a
stream is not disturbed; CLRERR is the only command that clears a sticky bit; and their encodings. -/
def Obligations.NopAndClrerrCommands : Prop :=
  (∀ s : State, exec .nop s = .next { s with lasterr := 0 }) ∧
  (∀ s : State, exec .clrerr s = .next { s with sticky := 0b00000, lasterr := 0 }) ∧
  (∀ (i : Instr) (s t : State), i ≠ .clrerr → exec i s = .next t →
    ∀ j, s.sticky.getLsbD j = true → t.sticky.getLsbD j = true) ∧
  (∀ w : Word, opField w = 0x0 → decode w = .nop) ∧ ∀ w : Word, opField w = 0xD → decode w = .clrerr

/-- R192: the reserved opcodes raise ReservedCommand whatever the other bits, in every state, and change nothing but LASTERR and
STICKY. -/
def Obligations.ReservedOpcodesRaiseReservedCommand : Prop :=
  (∀ s : State, exec .reservedE s = .next { s with lasterr := 5, sticky := s.sticky ||| 0b10000 }) ∧
  (∀ s : State, exec .reservedF s = .next { s with lasterr := 5, sticky := s.sticky ||| 0b10000 }) ∧
  (∀ w : Word, opField w = 0xE → decode w = .reservedE) ∧ ∀ w : Word, opField w = 0xF → decode w = .reservedF

/-! ## Invariants -/

/-- Every step keeps the invariants of the state rules, from every state that has them, reached by a run or not (10_state.md
sections 2 to 4). -/
def Obligations.InvariantIsKeptByEveryStep : Prop := ∀ s t : State, Inv s → step s = .next t → Inv t

/-- The state after reset has the invariants (10_state.md section 6). -/
def Obligations.InvariantHoldsAtReset : Prop := Inv State.reset

/-! ## Assembler -/

/-- The pseudo-commands assemble to exactly the words of their expansions, for all operands that fit their fields: LOADKEY to
SETKEY and SCHED, SBYTES to an SBYTE each, ENCSTREAM and DECSTREAM to the commands of a stream; and those words decode to the
commands (30_encoding.md section 3; that SBYTES has at least one operand is the model's reading, log 11). -/
def Obligations.PseudoCommandsAssembleToTheirExpansions : Prop :=
  (∀ k n : Nat, k < 2 ^ 12 → n < 2 ^ 8 →
    assemble (.loadkey k n) = some [encode (.setkey (BitVec.ofNat 12 k)), encode (.sched (BitVec.ofNat 8 n))]) ∧
  (∀ ds : List Nat, ds ≠ [] → (∀ d ∈ ds, d < 2 ^ 8) →
    assemble (.sbytes ds) = some (ds.map (fun d => encode (.sbyte (BitVec.ofNat 8 d))))) ∧
  (∀ ds : List Nat, (∀ d ∈ ds, d < 2 ^ 8) →
    assemble (.encstream ds) = some
      (encode (.senc (BitVec.ofNat 8 ((3 - ds.length % 3) % 3))) ::
        (ds.map (fun d => encode (.sbyte (BitVec.ofNat 8 d))) ++ [encode .send]))) ∧
  (∀ cs : List Nat, (∀ c ∈ cs, c < 2 ^ 8) →
    assemble (.decstream cs) = some
      (encode .sdec :: (cs.map (fun c => encode (.sbyte (BitVec.ofNat 8 c))) ++ [encode .send]))) ∧
  (∀ k n : Nat, k < 2 ^ 12 → n < 2 ^ 8 →
    (assemble (.loadkey k n)).map (List.map decode) =
      some [.setkey (BitVec.ofNat 12 k), .sched (BitVec.ofNat 8 n)]) ∧
  (∀ ds : List Nat, (∀ d ∈ ds, d < 2 ^ 8) →
    (assemble (.encstream ds)).map (List.map decode) = some (encStreamCommands (ds.map (BitVec.ofNat 8))) ∧
    (assemble (.decstream ds)).map (List.map decode) = some (decStreamCommands (ds.map (BitVec.ofNat 8))) ∧
    (ds ≠ [] →
      (assemble (.sbytes ds)).map (List.map decode) = some (ds.map (fun d => .sbyte (BitVec.ofNat 8 d)))))

/-- An operand that does not fit its field's width is an assembler error, at the first value that does not fit, in every command
and pseudo-command that has an operand; one that fits but that the core refuses assembles (30_encoding.md section 3). -/
def Obligations.OversizedOperandIsAssemblerError : Prop :=
  (∀ k, 2 ^ 12 ≤ k → assemble (.setkey k) = none ∧ assemble (.enc k) = none ∧ assemble (.dec k) = none) ∧
  (∀ n, 2 ^ 8 ≤ n → assemble (.sched n) = none ∧ assemble (.confuse n) = none ∧ assemble (.senc n) = none ∧
    assemble (.sbyte n) = none) ∧
  (∀ b k, 2 ^ 12 ≤ b ∨ 2 ^ 8 ≤ k → assemble (.round b k) = none) ∧
  (∀ h k, 2 ^ 6 ≤ h ∨ 2 ^ 8 ≤ k → assemble (.feistel h k) = none) ∧
  (∀ h, 2 ^ 6 ≤ h → assemble (.expand h) = none) ∧ (∀ w, 2 ^ 32 ≤ w → assemble (.word w) = none) ∧
  (∀ k n, 2 ^ 12 ≤ k ∨ 2 ^ 8 ≤ n → assemble (.loadkey k n) = none) ∧
  (∀ (ds : List Nat) (d : Nat), d ∈ ds → 2 ^ 8 ≤ d →
    assemble (.sbytes ds) = none ∧ assemble (.encstream ds) = none ∧ assemble (.decstream ds) = none) ∧
  assemble (.setkey 0x200) = some [0x10000200] ∧ assemble (.sched 10) = some [0x2000000A]
end

