-- ==== Sys2Proof/Laws/State.lean ====
section
/-! SUPPORT. One lemma per field per update of the state: what each named operation leaves in each register. -/

namespace Sys2Proof.Machine

/-! The fields after `emit` (20_memory.md R56). -/

@[simp] theorem emit_key (b : Byte) (s : State) : (emit b s).key = s.key := rfl
@[simp] theorem emit_nr (b : Byte) (s : State) : (emit b s).nr = s.nr := rfl
@[simp] theorem emit_kv (b : Byte) (s : State) : (emit b s).kv = s.kv := rfl
@[simp] theorem emit_rk (b : Byte) (s : State) : (emit b s).rk = s.rk := rfl
@[simp] theorem emit_result (b : Byte) (s : State) : (emit b s).result = s.result := rfl
@[simp] theorem emit_lasterr (b : Byte) (s : State) : (emit b s).lasterr = s.lasterr := rfl
@[simp] theorem emit_sticky (b : Byte) (s : State) : (emit b s).sticky = s.sticky := rfl
@[simp] theorem emit_smode (b : Byte) (s : State) : (emit b s).smode = s.smode := rfl
@[simp] theorem emit_pad (b : Byte) (s : State) : (emit b s).pad = s.pad := rfl
@[simp] theorem emit_buf (b : Byte) (s : State) : (emit b s).buf = s.buf := rfl
@[simp] theorem emit_bcnt (b : Byte) (s : State) : (emit b s).bcnt = s.bcnt := rfl
@[simp] theorem emit_hold (b : Byte) (s : State) : (emit b s).hold = s.hold := rfl
@[simp] theorem emit_hv (b : Byte) (s : State) : (emit b s).hv = s.hv := rfl
@[simp] theorem emit_ocnt (b : Byte) (s : State) : (emit b s).ocnt = s.ocnt + 1 := rfl
@[simp] theorem emit_out (b : Byte) (s : State) : (emit b s).out = s.out ++ [b] := rfl
@[simp] theorem emit_taken (b : Byte) (s : State) : (emit b s).taken = s.taken := rfl
@[simp] theorem emit_script (b : Byte) (s : State) : (emit b s).script = s.script := rfl
@[simp] theorem emit_reads (b : Byte) (s : State) : (emit b s).reads = s.reads := rfl
@[simp] theorem emit_got (b : Byte) (s : State) : (emit b s).got = s.got := rfl

/-! The fields after `setResult` (10_state.md R28). -/

@[simp] theorem setResult_key (r : Block12) (s : State) : (setResult r s).key = s.key := rfl
@[simp] theorem setResult_nr (r : Block12) (s : State) : (setResult r s).nr = s.nr := rfl
@[simp] theorem setResult_kv (r : Block12) (s : State) : (setResult r s).kv = s.kv := rfl
@[simp] theorem setResult_rk (r : Block12) (s : State) : (setResult r s).rk = s.rk := rfl
@[simp] theorem setResult_result (r : Block12) (s : State) : (setResult r s).result = r := rfl
@[simp] theorem setResult_lasterr (r : Block12) (s : State) : (setResult r s).lasterr = s.lasterr := rfl
@[simp] theorem setResult_sticky (r : Block12) (s : State) : (setResult r s).sticky = s.sticky := rfl
@[simp] theorem setResult_smode (r : Block12) (s : State) : (setResult r s).smode = s.smode := rfl
@[simp] theorem setResult_pad (r : Block12) (s : State) : (setResult r s).pad = s.pad := rfl
@[simp] theorem setResult_buf (r : Block12) (s : State) : (setResult r s).buf = s.buf := rfl
@[simp] theorem setResult_bcnt (r : Block12) (s : State) : (setResult r s).bcnt = s.bcnt := rfl
@[simp] theorem setResult_hold (r : Block12) (s : State) : (setResult r s).hold = s.hold := rfl
@[simp] theorem setResult_hv (r : Block12) (s : State) : (setResult r s).hv = s.hv := rfl
@[simp] theorem setResult_ocnt (r : Block12) (s : State) : (setResult r s).ocnt = s.ocnt := rfl
@[simp] theorem setResult_out (r : Block12) (s : State) : (setResult r s).out = s.out := rfl
@[simp] theorem setResult_taken (r : Block12) (s : State) : (setResult r s).taken = s.taken := rfl
@[simp] theorem setResult_script (r : Block12) (s : State) : (setResult r s).script = s.script := rfl
@[simp] theorem setResult_reads (r : Block12) (s : State) : (setResult r s).reads = s.reads := rfl
@[simp] theorem setResult_got (r : Block12) (s : State) : (setResult r s).got = s.got := rfl

/-! The fields after `clearSticky` (44_control.md R191). -/

@[simp] theorem clearSticky_key (s : State) : (clearSticky s).key = s.key := rfl
@[simp] theorem clearSticky_nr (s : State) : (clearSticky s).nr = s.nr := rfl
@[simp] theorem clearSticky_kv (s : State) : (clearSticky s).kv = s.kv := rfl
@[simp] theorem clearSticky_rk (s : State) : (clearSticky s).rk = s.rk := rfl
@[simp] theorem clearSticky_result (s : State) : (clearSticky s).result = s.result := rfl
@[simp] theorem clearSticky_lasterr (s : State) : (clearSticky s).lasterr = s.lasterr := rfl
@[simp] theorem clearSticky_sticky (s : State) : (clearSticky s).sticky = 0 := rfl
@[simp] theorem clearSticky_smode (s : State) : (clearSticky s).smode = s.smode := rfl
@[simp] theorem clearSticky_pad (s : State) : (clearSticky s).pad = s.pad := rfl
@[simp] theorem clearSticky_buf (s : State) : (clearSticky s).buf = s.buf := rfl
@[simp] theorem clearSticky_bcnt (s : State) : (clearSticky s).bcnt = s.bcnt := rfl
@[simp] theorem clearSticky_hold (s : State) : (clearSticky s).hold = s.hold := rfl
@[simp] theorem clearSticky_hv (s : State) : (clearSticky s).hv = s.hv := rfl
@[simp] theorem clearSticky_ocnt (s : State) : (clearSticky s).ocnt = s.ocnt := rfl
@[simp] theorem clearSticky_out (s : State) : (clearSticky s).out = s.out := rfl
@[simp] theorem clearSticky_taken (s : State) : (clearSticky s).taken = s.taken := rfl
@[simp] theorem clearSticky_script (s : State) : (clearSticky s).script = s.script := rfl
@[simp] theorem clearSticky_reads (s : State) : (clearSticky s).reads = s.reads := rfl
@[simp] theorem clearSticky_got (s : State) : (clearSticky s).got = s.got := rfl

/-! The fields after `endStream` (43_framer.md R168, R169). -/

@[simp] theorem endStream_key (s : State) : (endStream s).key = s.key := rfl
@[simp] theorem endStream_nr (s : State) : (endStream s).nr = s.nr := rfl
@[simp] theorem endStream_kv (s : State) : (endStream s).kv = s.kv := rfl
@[simp] theorem endStream_rk (s : State) : (endStream s).rk = s.rk := rfl
@[simp] theorem endStream_result (s : State) : (endStream s).result = s.result := rfl
@[simp] theorem endStream_lasterr (s : State) : (endStream s).lasterr = s.lasterr := rfl
@[simp] theorem endStream_sticky (s : State) : (endStream s).sticky = s.sticky := rfl
@[simp] theorem endStream_smode (s : State) : (endStream s).smode = .idle := rfl
@[simp] theorem endStream_pad (s : State) : (endStream s).pad = s.pad := rfl
@[simp] theorem endStream_buf (s : State) : (endStream s).buf = s.buf := rfl
@[simp] theorem endStream_bcnt (s : State) : (endStream s).bcnt = 0 := rfl
@[simp] theorem endStream_hold (s : State) : (endStream s).hold = s.hold := rfl
@[simp] theorem endStream_hv (s : State) : (endStream s).hv = false := rfl
@[simp] theorem endStream_ocnt (s : State) : (endStream s).ocnt = s.ocnt := rfl
@[simp] theorem endStream_out (s : State) : (endStream s).out = s.out := rfl
@[simp] theorem endStream_taken (s : State) : (endStream s).taken = s.taken := rfl
@[simp] theorem endStream_script (s : State) : (endStream s).script = s.script := rfl
@[simp] theorem endStream_reads (s : State) : (endStream s).reads = s.reads := rfl
@[simp] theorem endStream_got (s : State) : (endStream s).got = s.got := rfl

/-! The fields after `pushByte` (43_framer.md R167). -/

@[simp] theorem pushByte_key (d : Byte) (s : State) : (pushByte d s).key = s.key := rfl
@[simp] theorem pushByte_nr (d : Byte) (s : State) : (pushByte d s).nr = s.nr := rfl
@[simp] theorem pushByte_kv (d : Byte) (s : State) : (pushByte d s).kv = s.kv := rfl
@[simp] theorem pushByte_rk (d : Byte) (s : State) : (pushByte d s).rk = s.rk := rfl
@[simp] theorem pushByte_result (d : Byte) (s : State) : (pushByte d s).result = s.result := rfl
@[simp] theorem pushByte_lasterr (d : Byte) (s : State) : (pushByte d s).lasterr = s.lasterr := rfl
@[simp] theorem pushByte_sticky (d : Byte) (s : State) : (pushByte d s).sticky = s.sticky := rfl
@[simp] theorem pushByte_smode (d : Byte) (s : State) : (pushByte d s).smode = s.smode := rfl
@[simp] theorem pushByte_pad (d : Byte) (s : State) : (pushByte d s).pad = s.pad := rfl
@[simp] theorem pushByte_buf (d : Byte) (s : State) : (pushByte d s).buf = setByte s.buf s.bcnt.toNat d := rfl
@[simp] theorem pushByte_bcnt (d : Byte) (s : State) : (pushByte d s).bcnt = s.bcnt + 1 := rfl
@[simp] theorem pushByte_hold (d : Byte) (s : State) : (pushByte d s).hold = s.hold := rfl
@[simp] theorem pushByte_hv (d : Byte) (s : State) : (pushByte d s).hv = s.hv := rfl
@[simp] theorem pushByte_ocnt (d : Byte) (s : State) : (pushByte d s).ocnt = s.ocnt := rfl
@[simp] theorem pushByte_out (d : Byte) (s : State) : (pushByte d s).out = s.out := rfl
@[simp] theorem pushByte_taken (d : Byte) (s : State) : (pushByte d s).taken = s.taken := rfl
@[simp] theorem pushByte_script (d : Byte) (s : State) : (pushByte d s).script = s.script := rfl
@[simp] theorem pushByte_reads (d : Byte) (s : State) : (pushByte d s).reads = s.reads := rfl
@[simp] theorem pushByte_got (d : Byte) (s : State) : (pushByte d s).got = s.got := rfl

end Sys2Proof.Machine
end

