-- ==== Sys2Proof/Laws/Ops.lean ====
section
/-! SUPPORT. One lemma per shared operation, saying once everything it can do. -/

namespace Sys2Proof.Machine

/-- A command that succeeds answers the state with LASTERR 0 and nothing else. -/
theorem succeed_eq_next {s t : State} : succeed s = .next t ↔ t = { s with lasterr := 0 } := by
  simp [succeed, eq_comm]

/-- Raising an error answers the state with its code and its sticky bit and nothing else. -/
theorem raise_eq_next {e : ErrorKind} {s t : State} :
    raise e s = .next t ↔ t = { s with lasterr := errorCode e, sticky := s.sticky ||| stickyBit e } := by
  simp [raise, eq_comm]

/-- A FormatError answers the state with the stream ended and the error recorded, and nothing else. -/
theorem abortWithFormatError_eq_next {s t : State} :
    abortWithFormatError s = .next t ↔
      t = { s with smode := .idle, bcnt := 0, hv := false, lasterr := 2, sticky := s.sticky ||| 0b00010 } := by
  rw [abortWithFormatError, raise_eq_next]; rfl

/-- Emitting bytes appends them to OUT and counts them, and changes nothing else. -/
theorem emitAll_eq (bs : List Byte) (s : State) :
    emitAll bs s = { s with out := s.out ++ bs, ocnt := s.ocnt + BitVec.ofNat 32 bs.length } := by
  induction bs generalizing s with
  | nil => simp [emitAll]
  | cons b bs ih =>
    have h : emitAll (b :: bs) s = emitAll bs (emit b s) := rfl
    rw [h, ih]
    simp [emit, BitVec.ofNat_add, BitVec.add_assoc]
    exact BitVec.add_comm _ _

/-- No operation of the error path changes the round-key file. -/
theorem roundKeyEntry_congr {s t : State} (h : s.rk = t.rk) : roundKeyEntry s = roundKeyEntry t := by
  funext i; simp [roundKeyEntry, h]

/-- The block transforms depend on the state through RK and NR only. -/
theorem encBlock_congr {s t : State} (hr : s.rk = t.rk) (hn : s.nr = t.nr) : encBlock s = encBlock t := by
  funext b; simp [encBlock, roundKeyEntry_congr hr, hn]

/-- The block transforms depend on the state through RK and NR only. -/
theorem decBlock_congr {s t : State} (hr : s.rk = t.rk) (hn : s.nr = t.nr) : decBlock s = decBlock t := by
  funext b; simp [decBlock, roundKeyEntry_congr hr, hn]

/-- The chunk transforms depend on the state through RK and NR only. -/
theorem encChunk_congr {s t : State} (hr : s.rk = t.rk) (hn : s.nr = t.nr) : encChunk s = encChunk t := by
  funext c; simp [encChunk, encBlock_congr hr hn]

/-- The chunk transforms depend on the state through RK and NR only. -/
theorem decChunk_congr {s t : State} (hr : s.rk = t.rk) (hn : s.nr = t.nr) : decChunk s = decChunk t := by
  funext c; simp [decChunk, decBlock_congr hr hn]

/-- A chunk has three bytes. -/
@[simp] theorem chunkBytes_length (c : Chunk) : (chunkBytes c).length = 3 := rfl

/-- The header byte is taken, or the stream is aborted (43_framer.md R167). -/
theorem takeHeader_eq_next {d : Byte} {s t : State} :
    takeHeader d s = .next t ↔
      (2 < d.toNat ∧ t = { s with
        smode := .idle, bcnt := 0, hv := false, lasterr := 2, sticky := s.sticky ||| 0b00010 }) ∨
      (d.toNat ≤ 2 ∧ t = { s with pad := d.setWidth 2, smode := .dec, lasterr := 0 }) := by
  by_cases h : 2 < d.toNat
  · have h' : ¬ d.toNat ≤ 2 := by omega
    simp [takeHeader, padTooLarge, h, h', abortWithFormatError_eq_next]
  · have h' : d.toNat ≤ 2 := by omega
    simp [takeHeader, padTooLarge, h, h', succeed_eq_next, padOfByte]

/-- The third byte of an encryption chunk: the chunk is emitted at once (43_framer.md R167). -/
theorem completeEnc_eq (d : Byte) (s : State) :
    completeEnc d s = { s with
      bcnt := 0, out := s.out ++ chunkBytes (encChunk s ⟨s.buf.b0, s.buf.b1, d⟩), ocnt := s.ocnt + 3 } := by
  rw [completeEnc, emitAll_eq]; rfl

/-- The third byte of a decryption chunk: the held chunk is emitted and the new one is held (43_framer.md R167). -/
theorem completeDec_eq (d : Byte) (s : State) :
    completeDec d s = { s with
      bcnt := 0, out := s.out ++ heldBytes s, ocnt := s.ocnt + BitVec.ofNat 32 (heldBytes s).length,
      hold := decChunk s ⟨s.buf.b0, s.buf.b1, d⟩, hv := true } := by
  rw [completeDec, emitAll_eq]; rfl

/-- SEND in ENC on a whole chunk flushes nothing (43_framer.md R168). -/
theorem flushEnc_whole {s : State} (h : s.bcnt.toNat = 0) : flushEnc s = s := by simp [flushEnc, h]

/-- SEND in ENC on a partial chunk fills it, and emits it encrypted (43_framer.md R168). -/
theorem flushEnc_partial {s : State} (h : s.bcnt.toNat ≠ 0) :
    flushEnc s = { s with
      buf := fillFrom s.bcnt.toNat params.filler s.buf
      out := s.out ++ chunkBytes (encChunk s (fillFrom s.bcnt.toNat params.filler s.buf))
      ocnt := s.ocnt + 3 } := by
  simp only [flushEnc, h, if_false, emitAll_eq]; rfl

/-- SEND in DEC emits the first 3 - PAD bytes of a held chunk (43_framer.md R168). -/
theorem flushDec_eq (s : State) :
    flushDec s = { s with
      out := s.out ++ (heldBytes s).take (3 - s.pad.toNat)
      ocnt := s.ocnt + BitVec.ofNat 32 ((heldBytes s).take (3 - s.pad.toNat)).length } := by
  unfold flushDec heldBytes
  split <;> simp [emitAll_eq]

end Sys2Proof.Machine
end

