-- ==== Sys2Proof/Laws/Meanings.lean ====
section
/-! SUPPORT. One inversion lemma per meaning that has more than one outcome: if it answers a next state, one of these cases
holds. Laws about every command go by cases on the command and cite these instead of unfolding the meanings. -/

namespace Sys2Proof.Machine

/-- SETKEY (41_key_schedule.md R122): refused by the sequence, refused for its value, or accepted. -/
theorem execSetkey_eq_next {k : BitVec 12} {s t : State} :
    execSetkey k s = .next t ↔
      (s.smode ≠ .idle ∧ t = { s with lasterr := 4, sticky := s.sticky ||| 0b01000 }) ∨
      (s.smode = .idle ∧ 0x1FF < k.toNat ∧ t = { s with lasterr := 3, sticky := s.sticky ||| 0b00100 }) ∨
      (s.smode = .idle ∧ k.toNat ≤ 0x1FF ∧ t = { s with key := k.setWidth 9, kv := false, lasterr := 0 }) := by
  by_cases h : s.smode = .idle
  · by_cases hk : 0x1FF < k.toNat
    · have hk' : ¬ k.toNat ≤ 0x1FF := by omega
      simp [execSetkey, h, hk, hk', keyTooLarge, raise_eq_next, errorCode, stickyBit]
    · have hk' : k.toNat ≤ 0x1FF := by omega
      simp [execSetkey, h, hk, hk', keyTooLarge, succeed_eq_next, keyOfK12]
  · simp [execSetkey, h, raise_eq_next, errorCode, stickyBit]

/-- SCHED (41_key_schedule.md R123): refused by the sequence, refused for its count, or accepted. -/
theorem execSched_eq_next {n : Byte} {s t : State} :
    execSched n s = .next t ↔
      (s.smode ≠ .idle ∧ t = { s with lasterr := 4, sticky := s.sticky ||| 0b01000 }) ∨
      (s.smode = .idle ∧ 9 < n.toNat ∧ t = { s with kv := false, lasterr := 1, sticky := s.sticky ||| 0b00001 }) ∨
      (s.smode = .idle ∧ n.toNat ≤ 9 ∧
        t = { s with rk := schedule s.key n.toNat, nr := n.setWidth 4, kv := true, lasterr := 0 }) := by
  by_cases h : s.smode = .idle
  · by_cases hn : 9 < n.toNat
    · have hn' : ¬ n.toNat ≤ 9 := by omega
      simp [execSched, h, hn, hn', tooManyRounds, raise_eq_next, errorCode, stickyBit]
    · have hn' : n.toNat ≤ 9 := by omega
      simp [execSched, h, hn, hn', tooManyRounds, succeed_eq_next, countOfN8]
  · simp [execSched, h, raise_eq_next, errorCode, stickyBit]

/-- ENC (42_cipher.md R143): refused without a schedule, or RESULT written. -/
theorem execEnc_eq_next {b : Block12} {s t : State} :
    execEnc b s = .next t ↔
      (s.kv = false ∧ t = { s with lasterr := 4, sticky := s.sticky ||| 0b01000 }) ∨
      (s.kv = true ∧ t = { s with result := encBlock s b, lasterr := 0 }) := by
  cases h : s.kv <;> simp [execEnc, h, raise_eq_next, succeed_eq_next, errorCode, stickyBit, setResult]

/-- DEC (42_cipher.md R144): refused without a schedule, or RESULT written. -/
theorem execDec_eq_next {b : Block12} {s t : State} :
    execDec b s = .next t ↔
      (s.kv = false ∧ t = { s with lasterr := 4, sticky := s.sticky ||| 0b01000 }) ∨
      (s.kv = true ∧ t = { s with result := decBlock s b, lasterr := 0 }) := by
  cases h : s.kv <;> simp [execDec, h, raise_eq_next, succeed_eq_next, errorCode, stickyBit, setResult]

/-- SENC (43_framer.md R165): refused by the sequence, refused for its value, or opened with its header emitted. -/
theorem execSenc_eq_next {p : Byte} {s t : State} :
    execSenc p s = .next t ↔
      ((s.smode ≠ .idle ∨ s.kv = false) ∧ t = { s with lasterr := 4, sticky := s.sticky ||| 0b01000 }) ∨
      (s.smode = .idle ∧ s.kv = true ∧ 2 < p.toNat ∧
        t = { s with lasterr := 3, sticky := s.sticky ||| 0b00100 }) ∨
      (s.smode = .idle ∧ s.kv = true ∧ p.toNat ≤ 2 ∧
        t = { s with
          pad := p.setWidth 2, bcnt := 0, hv := false, smode := .enc, out := s.out ++ [p], ocnt := s.ocnt + 1,
          lasterr := 0 }) := by
  by_cases h : s.smode ≠ .idle ∨ s.kv = false
  · have h' : ¬ (s.smode = .idle ∧ s.kv = true) := by rintro ⟨a, b⟩; simp_all
    have h1 : ∀ q, ¬ (s.smode = .idle ∧ s.kv = true ∧ q) := fun q hq => h' ⟨hq.1, hq.2.1⟩
    simp only [execSenc, h, if_true, raise_eq_next, true_and, h1, or_false]; rfl
  · simp only [ne_eq, not_or, not_not, Bool.not_eq_false] at h
    by_cases hp : 2 < p.toNat
    · have hp' : ¬ p.toNat ≤ 2 := by omega
      simp [execSenc, h.1, h.2, hp, hp', padTooLarge, raise_eq_next, errorCode, stickyBit]
    · have hp' : p.toNat ≤ 2 := by omega
      simp [execSenc, h.1, h.2, hp, hp', padTooLarge, succeed_eq_next, emit, padOfByte]

/-- SDEC (43_framer.md R166): refused by the sequence, or opened. -/
theorem execSdec_eq_next {s t : State} :
    execSdec s = .next t ↔
      ((s.smode ≠ .idle ∨ s.kv = false) ∧ t = { s with lasterr := 4, sticky := s.sticky ||| 0b01000 }) ∨
      (s.smode = .idle ∧ s.kv = true ∧
        t = { s with pad := 0, bcnt := 0, hv := false, smode := .decHdr, lasterr := 0 }) := by
  by_cases h : s.smode ≠ .idle ∨ s.kv = false
  · have h1 : ∀ q, ¬ (s.smode = .idle ∧ s.kv = true ∧ q) := by rintro q ⟨a, b, -⟩; simp_all
    simp only [execSdec, h, if_true, raise_eq_next, true_and, h1, or_false]; rfl
  · simp only [ne_eq, not_or, not_not, Bool.not_eq_false] at h
    simp [execSdec, h.1, h.2, succeed_eq_next]

/-- SBYTE (43_framer.md R167): no stream; a header refused or taken; a byte buffered; a chunk completed in ENC or in DEC. -/
theorem execSbyte_eq_next {d : Byte} {s t : State} :
    execSbyte d s = .next t ↔
      (s.smode = .idle ∧ t = { s with lasterr := 4, sticky := s.sticky ||| 0b01000 }) ∨
      (s.smode = .decHdr ∧ 2 < d.toNat ∧ t = { s with
        smode := .idle, bcnt := 0, hv := false, lasterr := 2, sticky := s.sticky ||| 0b00010 }) ∨
      (s.smode = .decHdr ∧ d.toNat ≤ 2 ∧ t = { s with pad := d.setWidth 2, smode := .dec, lasterr := 0 }) ∨
      ((s.smode = .enc ∨ s.smode = .dec) ∧ s.bcnt.toNat < 2 ∧
        t = { s with buf := setByte s.buf s.bcnt.toNat d, bcnt := s.bcnt + 1, lasterr := 0 }) ∨
      (s.smode = .enc ∧ 2 ≤ s.bcnt.toNat ∧ t = { s with
        bcnt := 0, out := s.out ++ chunkBytes (encChunk s ⟨s.buf.b0, s.buf.b1, d⟩), ocnt := s.ocnt + 3,
        lasterr := 0 }) ∨
      (s.smode = .dec ∧ 2 ≤ s.bcnt.toNat ∧ t = { s with
        bcnt := 0, out := s.out ++ heldBytes s, ocnt := s.ocnt + BitVec.ofNat 32 (heldBytes s).length,
        hold := decChunk s ⟨s.buf.b0, s.buf.b1, d⟩, hv := true, lasterr := 0 }) := by
  by_cases hb : s.bcnt.toNat < 2
  · have hb' : ¬ 2 ≤ s.bcnt.toNat := by omega
    cases h : s.smode <;>
      simp [execSbyte, h, hb, hb', raise_eq_next, succeed_eq_next, takeHeader_eq_next, errorCode, stickyBit, pushByte]
  · have hb' : 2 ≤ s.bcnt.toNat := by omega
    cases h : s.smode <;>
      simp [execSbyte, h, hb, hb', raise_eq_next, succeed_eq_next, takeHeader_eq_next, errorCode, stickyBit,
        completeEnc_eq, completeDec_eq]

/-- SEND (43_framer.md R168): no stream; a FormatError that aborts it; an encryption stream flushed, or with nothing to flush; a
decryption stream flushed. -/
theorem execSend_eq_next {s t : State} :
    execSend s = .next t ↔
      (s.smode = .idle ∧ t = { s with lasterr := 4, sticky := s.sticky ||| 0b01000 }) ∨
      ((s.smode = .decHdr ∨ (s.smode = .enc ∧ s.pad.toNat ≠ (3 - s.bcnt.toNat) % 3) ∨
          (s.smode = .dec ∧ s.bcnt.toNat ≠ 0)) ∧
        t = { s with smode := .idle, bcnt := 0, hv := false, lasterr := 2, sticky := s.sticky ||| 0b00010 }) ∨
      (s.smode = .enc ∧ s.pad.toNat = (3 - s.bcnt.toNat) % 3 ∧ s.bcnt.toNat = 0 ∧
        t = { s with smode := .idle, bcnt := 0, hv := false, lasterr := 0 }) ∨
      (s.smode = .enc ∧ s.pad.toNat = (3 - s.bcnt.toNat) % 3 ∧ s.bcnt.toNat ≠ 0 ∧ t = { s with
        buf := fillFrom s.bcnt.toNat params.filler s.buf
        out := s.out ++ chunkBytes (encChunk s (fillFrom s.bcnt.toNat params.filler s.buf))
        ocnt := s.ocnt + 3, smode := .idle, bcnt := 0, hv := false, lasterr := 0 }) ∨
      (s.smode = .dec ∧ s.bcnt.toNat = 0 ∧ t = { s with
        out := s.out ++ (heldBytes s).take (3 - s.pad.toNat)
        ocnt := s.ocnt + BitVec.ofNat 32 ((heldBytes s).take (3 - s.pad.toNat)).length
        smode := .idle, bcnt := 0, hv := false, lasterr := 0 }) := by
  cases h : s.smode
  · simp [execSend, h, raise_eq_next, errorCode, stickyBit]
  · by_cases hp : s.pad.toNat = (3 - s.bcnt.toNat) % 3
    · by_cases hb : s.bcnt.toNat = 0
      · simp [execSend, h, requiredPad, hp, hb, flushEnc_whole, succeed_eq_next, endStream]
      · have hp2 := hp
        simp only [execSend, h, requiredPad, hp, ne_eq, not_true_eq_false, if_false, flushEnc_partial hb, succeed_eq_next]
        simp [hb, endStream]
    · simp [execSend, h, requiredPad, hp, abortWithFormatError_eq_next]
  · simp [execSend, h, abortWithFormatError_eq_next]
  · by_cases hb : s.bcnt.toNat = 0
    · simp only [execSend, h, hb, ne_eq, not_true_eq_false, if_false, flushDec_eq, succeed_eq_next]
      simp [endStream]
    · simp [execSend, h, hb, abortWithFormatError_eq_next]

end Sys2Proof.Machine
end

