-- ==== Sys2Proof/Laws/Exec.lean ====
section
/-! SUPPORT. The one case analysis over what a command can do. -/

namespace Sys2Proof.Machine

open Sys2Proof.Safety

/-- Everything a command can do: `P` holds of every command, the state before and the state after, if it holds of each outcome a
rule of the spec gives. Laws about every command go by this one case analysis. The values a command computes are left
open (`r`, `c`, `b`): the inversion lemma of its meaning gives them. -/
theorem exec_cases {P : Instr → State → State → Prop}
    (nop : ∀ (s : State), P .nop s { s with lasterr := 0 })
    (clrerr : ∀ (s : State), P .clrerr s { s with sticky := 0, lasterr := 0 })
    (reservedE : ∀ (s : State), P .reservedE s { s with lasterr := 5, sticky := s.sticky ||| 0b10000 })
    (reservedF : ∀ (s : State), P .reservedF s { s with lasterr := 5, sticky := s.sticky ||| 0b10000 })
    (expand : ∀ (s : State) h r, P (.expand h) s { s with result := r, lasterr := 0 })
    (confuse : ∀ (s : State) x r, P (.confuse x) s { s with result := r, lasterr := 0 })
    (feistel : ∀ (s : State) h k r, P (.feistel h k) s { s with result := r, lasterr := 0 })
    (round : ∀ (s : State) b k r, P (.round b k) s { s with result := r, lasterr := 0 })
    (enc : ∀ (s : State) b r, s.kv = true → P (.enc b) s { s with result := r, lasterr := 0 })
    (dec : ∀ (s : State) b r, s.kv = true → P (.dec b) s { s with result := r, lasterr := 0 })
    (sequenceError : ∀ (i : Instr) (s : State), SequenceCause i s = true →
      P i s { s with lasterr := 4, sticky := s.sticky ||| 0b01000 })
    (keyLoaded : ∀ (s : State) (k : BitVec 12), s.smode = .idle → k.toNat ≤ 0x1FF →
      P (.setkey k) s { s with key := k.setWidth 9, kv := false, lasterr := 0 })
    (keyRefused : ∀ (s : State) (k : BitVec 12), s.smode = .idle → 0x1FF < k.toNat →
      P (.setkey k) s { s with lasterr := 3, sticky := s.sticky ||| 0b00100 })
    (scheduled : ∀ (s : State) (n : Byte), s.smode = .idle → n.toNat ≤ 9 →
      P (.sched n) s { s with rk := schedule s.key n.toNat, nr := n.setWidth 4, kv := true, lasterr := 0 })
    (countRefused : ∀ (s : State) (n : Byte), s.smode = .idle → 9 < n.toNat →
      P (.sched n) s { s with kv := false, lasterr := 1, sticky := s.sticky ||| 0b00001 })
    (encOpened : ∀ (s : State) (p : Byte), s.smode = .idle → s.kv = true → p.toNat ≤ 2 →
      P (.senc p) s { s with
        pad := p.setWidth 2, bcnt := 0, hv := false, smode := .enc, out := s.out ++ [p], ocnt := s.ocnt + 1,
        lasterr := 0 })
    (padRefused : ∀ (s : State) (p : Byte), s.smode = .idle → s.kv = true → 2 < p.toNat →
      P (.senc p) s { s with lasterr := 3, sticky := s.sticky ||| 0b00100 })
    (decOpened : ∀ (s : State), s.smode = .idle → s.kv = true →
      P .sdec s { s with pad := 0, bcnt := 0, hv := false, smode := .decHdr, lasterr := 0 })
    (formatError : ∀ (i : Instr) (s : State), FormatCause i s = true → s.smode ≠ .idle →
      P i s { s with smode := .idle, bcnt := 0, hv := false, lasterr := 2, sticky := s.sticky ||| 0b00010 })
    (headerTaken : ∀ (s : State) (d : Byte), s.smode = .decHdr → d.toNat ≤ 2 →
      P (.sbyte d) s { s with pad := d.setWidth 2, smode := .dec, lasterr := 0 })
    (buffered : ∀ (s : State) (d : Byte), (s.smode = .enc ∨ s.smode = .dec) → s.bcnt.toNat < 2 →
      P (.sbyte d) s { s with buf := setByte s.buf s.bcnt.toNat d, bcnt := s.bcnt + 1, lasterr := 0 })
    (chunkEncrypted : ∀ (s : State) (d : Byte) c, s.smode = .enc → 2 ≤ s.bcnt.toNat →
      P (.sbyte d) s { s with bcnt := 0, out := s.out ++ chunkBytes c, ocnt := s.ocnt + 3, lasterr := 0 })
    (chunkDecrypted : ∀ (s : State) (d : Byte) c, s.smode = .dec → 2 ≤ s.bcnt.toNat →
      P (.sbyte d) s { s with
        bcnt := 0, out := s.out ++ heldBytes s, ocnt := s.ocnt + BitVec.ofNat 32 (heldBytes s).length,
        hold := c, hv := true, lasterr := 0 })
    (encEnded : ∀ (s : State), s.smode = .enc → s.pad.toNat = (3 - s.bcnt.toNat) % 3 → s.bcnt.toNat = 0 →
      P .send s { s with smode := .idle, bcnt := 0, hv := false, lasterr := 0 })
    (encFlushed : ∀ (s : State) b c, s.smode = .enc → s.pad.toNat = (3 - s.bcnt.toNat) % 3 → s.bcnt.toNat ≠ 0 →
      P .send s { s with
        buf := b, out := s.out ++ chunkBytes c, ocnt := s.ocnt + 3, smode := .idle, bcnt := 0, hv := false,
        lasterr := 0 })
    (decFlushed : ∀ (s : State), s.smode = .dec → s.bcnt.toNat = 0 →
      P .send s { s with
        out := s.out ++ (heldBytes s).take (3 - s.pad.toNat)
        ocnt := s.ocnt + BitVec.ofNat 32 ((heldBytes s).take (3 - s.pad.toNat)).length
        smode := .idle, bcnt := 0, hv := false, lasterr := 0 }) :
    ∀ i s t, exec i s = .next t → P i s t := by
  intro i s t h
  cases i <;>
    simp only [exec, execNop, execClrerr, execReservedE, execReservedF, execExpand, execConfuse, execFeistel, execRound,
      execSetkey_eq_next, execSched_eq_next, execEnc_eq_next, execDec_eq_next, execSenc_eq_next, execSdec_eq_next,
      execSbyte_eq_next, execSend_eq_next, succeed_eq_next, raise_eq_next] at h
  case nop => subst h; exact nop s
  case clrerr => subst h; exact clrerr s
  case reservedE => subst h; exact reservedE s
  case reservedF => subst h; exact reservedF s
  case expand => subst h; exact expand s _ _
  case confuse => subst h; exact confuse s _ _
  case feistel => subst h; exact feistel s _ _ _
  case round => subst h; exact round s _ _ _
  case setkey =>
    rcases h with ⟨h1, rfl⟩ | ⟨h1, h2, rfl⟩ | ⟨h1, h2, rfl⟩
    · exact sequenceError _ _ (by simp [SequenceCause, h1])
    · exact keyRefused _ _ h1 h2
    · exact keyLoaded _ _ h1 h2
  case sched =>
    rcases h with ⟨h1, rfl⟩ | ⟨h1, h2, rfl⟩ | ⟨h1, h2, rfl⟩
    · exact sequenceError _ _ (by simp [SequenceCause, h1])
    · exact countRefused _ _ h1 h2
    · exact scheduled _ _ h1 h2
  case enc =>
    rcases h with ⟨h1, rfl⟩ | ⟨h1, rfl⟩
    · exact sequenceError _ _ (by simp [SequenceCause, h1])
    · exact enc _ _ _ h1
  case dec =>
    rcases h with ⟨h1, rfl⟩ | ⟨h1, rfl⟩
    · exact sequenceError _ _ (by simp [SequenceCause, h1])
    · exact dec _ _ _ h1
  case senc =>
    rcases h with ⟨h1, rfl⟩ | ⟨h1, h2, h3, rfl⟩ | ⟨h1, h2, h3, rfl⟩
    · exact sequenceError _ _ (by simp [SequenceCause]; tauto)
    · exact padRefused _ _ h1 h2 h3
    · exact encOpened _ _ h1 h2 h3
  case sdec =>
    rcases h with ⟨h1, rfl⟩ | ⟨h1, h2, rfl⟩
    · exact sequenceError _ _ (by simp [SequenceCause]; tauto)
    · exact decOpened _ h1 h2
  case sbyte =>
    rcases h with ⟨h1, rfl⟩ | ⟨h1, h2, rfl⟩ | ⟨h1, h2, rfl⟩ | ⟨h1, h2, rfl⟩ | ⟨h1, h2, rfl⟩ | ⟨h1, h2, rfl⟩
    · exact sequenceError _ _ (by simp [SequenceCause, h1])
    · exact formatError _ _ (by simp [FormatCause, h1, h2]) (by simp [h1])
    · exact headerTaken _ _ h1 h2
    · exact buffered _ _ h1 h2
    · exact chunkEncrypted _ _ _ h1 h2
    · exact chunkDecrypted _ _ _ h1 h2
  case send =>
    rcases h with ⟨h1, rfl⟩ | ⟨h1, rfl⟩ | ⟨h1, h2, h3, rfl⟩ | ⟨h1, h2, h3, rfl⟩ | ⟨h1, h2, rfl⟩
    · exact sequenceError _ _ (by simp [SequenceCause, h1])
    · refine formatError _ _ ?_ ?_
      · rcases h1 with h1 | ⟨h1, h2⟩ | ⟨h1, h2⟩ <;> simp [FormatCause, h1]
        · exact h2
        · intro h; simp [h] at h2
      · rcases h1 with h1 | ⟨h1, h2⟩ | ⟨h1, h2⟩ <;> simp [h1]
    · exact encEnded _ h1 h2 h3
    · exact encFlushed _ _ _ h1 h2 h3
    · exact decFlushed _ h1 h2

end Sys2Proof.Machine
end

