-- ==== Sys2Proof/Laws/PerInstr.lean ====
section
/-! SUPPORT. One lemma per constructor of Instr about the layout of its word: where the encoder puts the opcode, the key and the
low field (30_encoding.md R82, R86). -/

namespace Sys2Proof.Laws.EncodingLayout

/-- The command's word carries its opcode in bits [31:28], 0 in bits [27:20], its RKEY in bits [19:12] and its low field in
bits [11:0] (30_encoding.md R82, R86). -/
def Statement (i : Instr) : Prop :=
  opField (encode i) = i.opcode ∧ (encode i).extractLsb' 20 8 = 0#8 ∧ rkeyField (encode i) = i.rkeyBits ∧
    blkField (encode i) = i.lowBits

/-- The layout of any word put together from an opcode, a key and a low field. -/
theorem layout_of_parts (op : BitVec 4) (key : Byte) (low : BitVec 12) :
    let w : Word := (op.setWidth 32 <<< 28) ||| (key.setWidth 32 <<< 12) ||| low.setWidth 32
    opField w = op ∧ w.extractLsb' 20 8 = 0#8 ∧ rkeyField w = key ∧ blkField w = low := by
  refine ⟨?_, ?_, ?_, ?_⟩ <;> apply BitVec.eq_of_getLsbD_eq <;> intro j hj <;>
    simp only [opField, rkeyField, blkField, BitVec.getLsbD_extractLsb', BitVec.getLsbD_or, BitVec.getLsbD_shiftLeft,
      BitVec.getLsbD_setWidth, BitVec.getLsbD_zero] <;>
    interval_cases j <;> simp

theorem nop : Statement .nop := layout_of_parts _ _ _
theorem setkey (k12 : BitVec 12) : Statement (.setkey k12) := layout_of_parts _ _ _
theorem sched (n8 : BitVec 8) : Statement (.sched n8) := layout_of_parts _ _ _
theorem enc (blk : Block12) : Statement (.enc blk) := layout_of_parts _ _ _
theorem dec (blk : Block12) : Statement (.dec blk) := layout_of_parts _ _ _
theorem round (blk : Block12) (rkey : Byte) : Statement (.round blk rkey) := layout_of_parts _ _ _
theorem feistel (half : Half6) (rkey : Byte) : Statement (.feistel half rkey) := layout_of_parts _ _ _
theorem expand (half : Half6) : Statement (.expand half) := layout_of_parts _ _ _
theorem confuse (byte : Byte) : Statement (.confuse byte) := layout_of_parts _ _ _
theorem senc (pad8 : Byte) : Statement (.senc pad8) := layout_of_parts _ _ _
theorem sdec : Statement .sdec := layout_of_parts _ _ _
theorem sbyte (data : Byte) : Statement (.sbyte data) := layout_of_parts _ _ _
theorem send : Statement .send := layout_of_parts _ _ _
theorem clrerr : Statement .clrerr := layout_of_parts _ _ _
theorem reservedE : Statement .reservedE := layout_of_parts _ _ _
theorem reservedF : Statement .reservedF := layout_of_parts _ _ _

end Sys2Proof.Laws.EncodingLayout
end

