-- ==== Sys2Proof/Laws/Step.lean ====
section
/-! SUPPORT. The one case analysis over what a step can do, and what each host interaction leaves. -/

namespace Sys2Proof.Machine

/-- Everything a step can do: hold an idle core, run the decoded command, or perform one of the host's other interactions. -/
theorem step_eq_next {s t : State} :
    step s = .next t ↔
      (s.script = [] ∧ t = s) ∨
      (∃ w rest, s.script = .command w :: rest ∧ exec (decode w) { s with script := rest } = .next t) ∨
      (∃ a rest, s.script = .readReg a :: rest ∧
        t = { s with script := rest, reads := s.reads ++ [(a, readRegister a s)] }) ∨
      (∃ rest, s.script = .outReady :: rest ∧ t = hostTake { s with script := rest }) ∨
      (∃ rest, s.script = .reset :: rest ∧
        t = { State.reset with script := rest, reads := s.reads, got := s.got }) := by
  have next_iff (x y : State) : ((.next x : Answer) = .next y) ↔ y = x :=
    ⟨fun h => by cases h; rfl, fun h => by rw [h]⟩
  rcases h : s.script with _ | ⟨m, rest⟩
  · simp [step, h, next_iff]
  · cases m with
    | command w => simp [step, h]
    | readReg a =>
      have e : readRegister a { s with script := rest } = readRegister a s := rfl
      simp [step, h, next_iff, hostRead, e]
    | outReady => simp [step, h, next_iff]
    | reset => simp [step, h, next_iff, hostReset]

/-- Taking an output byte: the offered byte, if there is one, or nothing (20_memory.md R55; log 12). -/
theorem hostTake_cases (s : State) :
    (∃ b, s.out[s.taken]? = some b ∧ hostTake s = { s with taken := s.taken + 1, got := s.got ++ [b] }) ∨
      (s.out[s.taken]? = none ∧ hostTake s = s) := by
  cases h : s.out[s.taken]? with
  | none => exact .inr ⟨rfl, by simp [hostTake, offeredByte, h]⟩
  | some b => exact .inl ⟨b, rfl, by simp [hostTake, offeredByte, h]⟩

/-- An entry of the round-key file that exists is the register (10_state.md R26). -/
theorem roundKeyEntry_of_lt (s : State) {i : Nat} (h : i < 9) : roundKeyEntry s i = s.rk[i] := by
  simp [roundKeyEntry, h]

/-- An entry of the schedule (41_key_schedule.md R123). -/
@[simp] theorem schedule_getElem (key : Key9) (n i : Nat) (h : i < 9) :
    (schedule key n)[i] = if i < n then roundKey key i else 0x00 := by
  simp [schedule]

end Sys2Proof.Machine
end

