-- ==== Sys2Proof/Tests/Slice0.lean ====
section
/-! SUPPORT. Tests: words decoded by hand from the encoding tables, single steps checked against the vectors of
95_test_vectors.md, the operand checks on ill-formed terms, and a witness of the hypotheses of every obligation that has
any. -/

namespace Sys2Proof.Tests

open Sys2Proof Sys2Proof.Machine Sys2Proof.Safety

/-! ## Helpers -/

/-- The next state of an answer. -/
def nextState : Answer → Option State
  | .next t => some t
  | _ => none

/-- What a command leaves, seen through one reading of the state. -/
def look {α : Type} (i : Instr) (s : State) (f : State → α) : Option α := (nextState (exec i s)).map f

/-- The state the vectors call "sched": key 0x1C7, two rounds (95_test_vectors.md section 3.4). -/
def sched1C7 : State :=
  { State.reset with key := 0x1C7, rk := #v[0xE3, 0xC7, 0, 0, 0, 0, 0, 0, 0], nr := 2, kv := true }

/-- Key 0x13B with two rounds, the key list of V11 and V12. -/
def sched13B : State :=
  { State.reset with key := 0x13B, rk := #v[0x9D, 0x3B, 0, 0, 0, 0, 0, 0, 0], nr := 2, kv := true }

/-- The state the vectors call "enc": "sched", then `SENC 0`. -/
def streamEnc : State := { sched1C7 with smode := .enc, out := [0x00], ocnt := 1 }

/-- "sched", then `SDEC`. -/
def streamHdr : State := { sched1C7 with smode := .decHdr }

/-- A decryption stream with no chunk held, its header `p` taken. -/
def streamDec (p : BitVec 2) : State := { sched1C7 with smode := .dec, pad := p }

/-- A decryption stream with AC DB A7 held (P5, line 7). -/
def streamHeld (p : BitVec 2) : State := { streamDec p with hold := ⟨0xAC, 0xDB, 0xA7⟩, hv := true }

/-! ## Decoding: words written from the encoding tables of 30_encoding.md, section 2 -/

theorem test_decode_bitops :
    decode 0b0111_0000000000000000000000_110101 = .expand 0x35 ∧
    decode 0b1000_00000000000000000000_01110100 = .confuse 0x74 ∧
    decode 0b0110_00000000_11100011_000000_110101 = .feistel 0x35 0xE3 := by decide

theorem test_decode_keyschedule :
    decode 0b0001_0000000000000000_000100111011 = .setkey 0x13B ∧
    decode 0b0010_00000000000000000000_00000100 = .sched 4 := by decide

theorem test_decode_cipher :
    decode 0b0011_0000000000000000_100010110101 = .enc 0x8B5 ∧
    decode 0b0100_0000000000000000_010011100101 = .dec 0x4E5 ∧
    decode 0b0101_00000000_00111011_110101100101 = .round 0xD65 0x3B := by decide

theorem test_decode_framer :
    decode 0b1001_00000000000000000000_00000010 = .senc 2 ∧
    decode 0b1010_0000000000000000000000000000 = .sdec ∧
    decode 0b1011_00000000000000000000_01000011 = .sbyte 0x43 ∧
    decode 0b1100_0000000000000000000000000000 = .send := by decide

theorem test_decode_control :
    decode 0b0000_0000000000000000000000000000 = .nop ∧
    decode 0b1101_0000000000000000000000000000 = .clrerr ∧
    decode 0b1110_0000000000000000000000000000 = .reservedE ∧
    decode 0b1111_0000000000000000000000000000 = .reservedF := by decide

/-- The encoder writes the words of the same tables. -/
theorem test_encode_examples :
    [Instr.nop, .setkey 0x13B, .sched 4, .enc 0x8B5, .dec 0x4E5, .round 0xD65 0x3B, .feistel 0x35 0xE3, .expand 0x35].map
      encode = [0x00000000, 0x1000013B, 0x20000004, 0x300008B5, 0x400004E5, 0x5003BD65, 0x600E3035, 0x70000035] ∧
    [Instr.confuse 0x74, .senc 2, .sdec, .sbyte 0x43, .send, .clrerr, .reservedE, .reservedF].map
      encode = [0x80000074, 0x90000002, 0xA0000000, 0xB0000043, 0xC0000000, 0xD0000000, 0xE0000000, 0xF0000000] := by
  decide

/-- Ignored bits set: the words of 95_test_vectors.md sections 2.1, 2.5, 2.6, 2.7 and 4. -/
theorem test_decode_ignored_bits :
    decode 0x7FFFFFF5 = .expand 0x35 ∧ decode 0x5FFFFD65 = .round 0xD65 0xFF ∧ decode 0x20000104 = .sched 4 ∧
    decode 0x1FFFF13B = .setkey 0x13B ∧ decode 0x3FFFF8B5 = .enc 0x8B5 ∧ decode 0x0FFFFFFF = .nop := by decide

/-- The host's reading of a table row, at its width and shorter; more bits than a word are refused (log 10). -/
theorem test_decodeTableWord :
    decodeTableWord 32 0x600E3035 = some (.feistel 0x35 0xE3) ∧ decodeTableWord 8 0x35 = some .nop ∧
    decodeTableWord 33 0 = none := by decide

/-- The placed word is the first thing a step from reset runs. -/
theorem test_withFetchWord :
    nextState (step (State.reset.withFetchWord 32 0x1000013B)) = some { State.reset with key := 0x13B } := by decide

/-! ## Well-formedness: one term each check refuses, beside the nearest it admits -/

theorem test_operandsLegal_setkey : (Instr.setkey 0x200).operandsLegal = false ∧ (Instr.setkey 0x1FF).operandsLegal := by
  decide

theorem test_operandsLegal_sched : (Instr.sched 10).operandsLegal = false ∧ (Instr.sched 9).operandsLegal := by decide

theorem test_operandsLegal_senc : (Instr.senc 3).operandsLegal = false ∧ (Instr.senc 2).operandsLegal := by decide

/-- The assembler's width checks, 12, 8, 6 and 32 bits (30_encoding.md R90). -/
theorem test_asmWellFormed_widths :
    asmWellFormed (.setkey 4096) = false ∧ asmWellFormed (.setkey 4095) ∧ asmWellFormed (.sched 256) = false ∧
    asmWellFormed (.sched 255) ∧ asmWellFormed (.expand 64) = false ∧ asmWellFormed (.expand 63) ∧
    asmWellFormed (.word 4294967296) = false ∧ asmWellFormed (.word 4294967295) := by decide

/-- The assembler's check of each operand of each statement that has one. -/
theorem test_asmWellFormed_operands :
    [AsmStmt.enc 4096, .dec 4096, .round 4096 0, .round 0 256, .feistel 64 0, .feistel 0 256, .confuse 256, .senc 256,
      .sbyte 256, .loadkey 4096 0, .loadkey 0 256, .sbytes [], .sbytes [0, 256], .encstream [256],
      .decstream [256]].map asmWellFormed = List.replicate 15 false := by decide

/-- The syntax of 30_encoding.md R90 and R91, a comment and a reserved word among it. -/
theorem test_assemble_lines :
    assembleLine "ROUND 0xD65, 0x3B ; V6".toList = some [0x5003BD65] ∧
    assembleLine "LOADKEY 0x1C7,2".toList = some [0x100001C7, 0x20000002] ∧
    assembleLine ".word 0xE0000000".toList = some [0xE0000000] ∧ assembleLine "SETKEY 0x200".toList = some [0x10000200] ∧
    assembleLine "SETKEY 4096".toList = none ∧ assembleLine "JUMP 1".toList = none := by decide

/-- P3 lines 3 to 5 and 8, as one ENCSTREAM of two bytes (30_encoding.md R91). -/
theorem test_assemble_encstream :
    assembleLine "ENCSTREAM 0x41, 0x42".toList = some [0x90000001, 0xB0000041, 0xB0000042, 0xC0000000] := by decide

/-! ## Single steps, the expected values from 95_test_vectors.md -/

/-- Section 4, NOP after SCHED 10: the sticky bit stays. -/
theorem test_nop :
    look .nop { State.reset with lasterr := 1, sticky := 0b00001 } statusImage = some 0x00010 := by decide

/-- B3, and SETKEY clears KV even for the same key (41_key_schedule.md R122). -/
theorem test_setkey_accepts :
    look (.setkey 0x1FF) State.reset (fun t => (t.key, t.lasterr)) = some (0x1FF, 0) ∧
    look (.setkey 0x1C7) sched1C7 (fun t => (t.kv, t.nr)) = some (false, 2) := by decide

/-- B4 and section 2.6: the value is refused, and in a stream the sequence comes first. -/
theorem test_setkey_refuses :
    look (.setkey 0x200) State.reset statusImage = some 0x00043 ∧
    look (.setkey 0x200) streamEnc (fun t => (t.key, t.lasterr)) = some (0x1C7, 4) := by decide

/-- Section 2.6, key 0x1C7: all nine entries. -/
theorem test_sched_nine :
    look (.sched 9) { State.reset with key := 0x1C7 } (fun t => (t.rk, t.nr, t.kv)) =
      some (#v[0xE3, 0xC7, 0x8F, 0x1F, 0x3F, 0x7E, 0xFC, 0xF8, 0xF1], 9, true) := by decide

/-- Section 2.6: SCHED 10 clears KV and leaves NR and RK. -/
theorem test_sched_ten :
    look (.sched 10) sched1C7 (fun t => (t.lasterr, t.kv, t.nr, t.rk)) = some (1, false, 2, sched1C7.rk) := by decide

/-- V11, and section 2.7: key 0x1C7 in an encryption stream. -/
theorem test_enc :
    look (.enc 0x8B5) sched13B State.result = some 0x4E5 ∧ look (.enc 0x8B5) streamEnc State.result = some 0x34A := by
  decide

/-- Section 2.7: after reset there is no schedule. -/
theorem test_enc_without_schedule : look (.enc 0x123) State.reset statusImage = some 0x00084 := by decide

/-- V12, and P7 line 8: nine rounds. -/
theorem test_dec :
    look (.dec 0x4E5) sched13B State.result = some 0x8B5 ∧
    look (.dec 0xCEE)
      { State.reset with rk := #v[0xE3, 0xC7, 0x8F, 0x1F, 0x3F, 0x7E, 0xFC, 0xF8, 0xF1], nr := 9, kv := true }
      State.result = some 0xABC := by decide

/-- V6, V7 and the last row of section 2.5. -/
theorem test_round :
    look (.round 0xD65 0x3B) State.reset State.result = some 0x953 ∧
    look (.round 0x8B5 0xE3) State.reset State.result = some 0xD4A ∧
    look (.round 0xD65 0xFF) State.reset State.result = some 0x956 := by decide

/-- V4, V5 and two rows of section 2.4. -/
theorem test_feistel :
    look (.feistel 0x25 0x3B) State.reset State.result = some 0x026 ∧
    look (.feistel 0x35 0xE3) State.reset State.result = some 0x028 ∧
    look (.feistel 0x15 0xAA) State.reset State.result = some 0x005 ∧
    look (.feistel 0x3F 0x00) State.reset State.result = some 0x01C := by decide

/-- V1 and rows of section 2.1. -/
theorem test_expand :
    look (.expand 0x35) State.reset State.result = some 0x0E9 ∧ look (.expand 0x0C) State.reset State.result = some 0x03C ∧
    look (.expand 0x3F) State.reset State.result = some 0x0FF := by decide

/-- V2, V3 and rows of section 2.3. -/
theorem test_confuse :
    look (.confuse 0x74) State.reset State.result = some 0x007 ∧ look (.confuse 0x0A) State.reset State.result = some 0x028 ∧
    look (.confuse 0xA5) State.reset State.result = some 0x031 ∧ look (.confuse 0xFF) State.reset State.result = some 0x01C := by
  decide

/-- P3 line 3. -/
theorem test_senc : look (.senc 2) sched1C7 (fun t => (statusImage t, t.out)) = some (0x02600, [0x02]) := by decide

/-- Section 3.4: SENC 3 with and without a schedule. -/
theorem test_senc_refuses :
    look (.senc 3) sched1C7 statusImage = some 0x00243 ∧ look (.senc 3) State.reset statusImage = some 0x00084 := by decide

/-- P3 line 9 and section 3.4. -/
theorem test_sdec :
    look .sdec { sched1C7 with pad := 2 } statusImage = some 0x00A00 ∧ look .sdec streamEnc statusImage = some 0x00684 := by
  decide

/-- The example of 43_framer.md R167: 05 FE A5 (section 3.1); and P5 line 7, the held chunk. -/
theorem test_sbyte_completes :
    look (.sbyte 0x43) { streamEnc with buf := ⟨0x41, 0x42, 0⟩, bcnt := 2 } (fun t => (t.out, t.bcnt)) =
      some ([0x00, 0x05, 0xFE, 0xA5], 0) ∧
    look (.sbyte 0x33) { streamDec 0 with buf := ⟨0x11, 0x22, 0⟩, bcnt := 2 } (fun t => (statusImage t, t.hold, t.out)) =
      some (0x10E00, ⟨0xAC, 0xDB, 0xA7⟩, []) := by decide

/-- Section 3.4: a header byte taken and refused. -/
theorem test_sbyte_header :
    look (.sbyte 0x02) streamHdr statusImage = some 0x02E00 ∧ look (.sbyte 0x03) streamHdr statusImage = some 0x00222 := by
  decide

/-- P3 line 8: the last byte is padded and encrypted; and section 3.4, a header that does not match. -/
theorem test_send_enc :
    look .send { streamEnc with pad := 2, buf := ⟨0x44, 0x42, 0⟩, bcnt := 1 } (fun t => (statusImage t, t.out)) =
      some (0x02200, [0x00, 0xDF, 0xC0, 0x2D]) ∧
    look .send { streamEnc with buf := ⟨0x41, 0, 0⟩, bcnt := 1 } (fun t => (statusImage t, t.out)) =
      some (0x00222, [0x00]) := by decide

/-- S2 and section 3.3: the held chunk truncated by 0, 1 and 2; S1 and S4: no chunk, no error. -/
theorem test_send_dec :
    look .send (streamHeld 0) State.out = some [0xAC, 0xDB, 0xA7] ∧ look .send (streamHeld 1) State.out = some [0xAC, 0xDB] ∧
    look .send (streamHeld 2) State.out = some [0xAC] ∧
    look .send (streamDec 2) (fun t => (statusImage t, t.out)) = some (0x02200, []) := by decide

/-- P4 line 6. -/
theorem test_clrerr :
    look .clrerr { State.reset with sticky := 0b11101 } statusImage = some 0x00000 ∧
    look .clrerr { streamEnc with sticky := 0b11111, lasterr := 2 } statusImage = some 0x00600 := by decide

/-- P4 line 4. -/
theorem test_reservedE : look .reservedE { State.reset with sticky := 0b01101 } statusImage = some 0x001D5 := by decide

/-- Section 3.4: the stream goes on. -/
theorem test_reservedF : look .reservedF streamEnc statusImage = some 0x00705 := by decide

/-- The observation of a run: OUT, the reads and the final record (20_memory.md R71), on `SDEC` after reset
(95_test_vectors.md section 3.4) and a read of STATUS. -/
theorem test_observation :
    observeRun [.command 0xA0000000, .readReg 0x01] =
      .next { out := [], reads := [(0x01, 0x00000084)],
              final := { coreRecord State.reset with lasterr := 4, sticky := 0b01000 } } := rfl

/-- The end state of P1 through the register read port, and two reserved addresses. -/
theorem test_register_reads :
    let s : State := { State.reset with key := 0x13B, rk := #v[0x9D, 0x3B, 0x77, 0xEE, 0, 0, 0, 0, 0], nr := 4, kv := true }
    [0x00, 0x01, 0x02, 0x03, 0x08, 0x0B, 0x0C, 0x10, 0x06, 0x1F].map (fun a => readRegister a s) =
      [0x00000001, 0x00000200, 0x0000013B, 0x00000004, 0x9D, 0xEE, 0, 0, 0, 0] := by decide

/-! ## Witnesses: for every obligation with hypotheses, concrete values that meet them, clause by clause and at the bounds

Where a clause gives a next state, the witness shows its conclusion there too. -/

/-- A decryption stream with a chunk held, the host holding a byte it took. -/
def streamHeldTaken : State := { streamHeld 0 with got := [0x02] }

/-- A state whose host is about to do the given moves. -/
def withScript (s : State) (moves : List HostMove) : State := { s with script := moves }

theorem witness_IgnoredBitsChangeNothing :
    ((0x3FFFF8B5 : Word) ^^^ 0x300008B5) &&& usedBits (opField 0x3FFFF8B5) = 0 ∧
    ((0x7FFFFFF5 : Word) ^^^ 0x70000035) &&& usedBits (opField 0x7FFFFFF5) = 0 ∧
    ((0x600FFFFF : Word) ^^^ 0x6FFFF03F) &&& usedBits (opField 0x600FFFFF) = 0 := by decide

theorem witness_StepRunsDecodedCommand :
    (withScript sched1C7 [.command 0x300008B5, .reset]).script = .command 0x300008B5 :: [.reset] := rfl

theorem witness_WrittenWordsRunInOrder :
    (withScript State.reset [.command 0x1000013B, .command 0x20000004, .reset]).script =
      writeWords [0x1000013B, 0x20000004] ++ [.reset] := rfl

theorem witness_RegisterReadHasNoSideEffect :
    (withScript sched1C7 [.readReg 0x1F]).script = .readReg 0x1F :: [] ∧
    (withScript sched1C7 [.readReg 0x08, .readReg 0x08]).script = .readReg 0x08 :: .readReg 0x08 :: [] ∧
    nextState (step (withScript sched1C7 [.readReg 0x08])) = some { sched1C7 with reads := [(0x08, 0xE3)] } := by decide

theorem witness_OutputBytesAreTakenInOrder :
    (withScript streamEnc [.outReady]).script = .outReady :: [] ∧
    (withScript streamEnc [.outReady]).out[(withScript streamEnc [.outReady]).taken]? = some 0x00 ∧
    (withScript { streamEnc with taken := 1 } [.outReady]).script = .outReady :: [] ∧
    { streamEnc with taken := 1 }.out[1]? = none := by decide

theorem witness_ResetReplacesCoreState :
    (withScript streamHeldTaken [.reset]).script = .reset :: [] ∧
    (withScript streamHeldTaken [.command 0xB0000011, .reset]).script = .command 0xB0000011 :: .reset :: [] ∧
    nextState (step (withScript streamHeldTaken [.reset])) = some { State.reset with got := [0x02] } := by decide

theorem witness_IdleCoreHoldsItsState : streamEnc.script = [] := rfl

/-- A word waiting in a state in which every kind of error is recorded. -/
theorem witness_NoErrorStopsTheCore :
    (withScript { streamEnc with lasterr := 5, sticky := 0b11111 } [.command 0x90000000]).script =
      .command 0x90000000 :: [] := rfl

theorem witness_RegisterReadMap :
    0x11 ≤ (0x11 : RegAddr).toNat ∧ 0x11 ≤ (0x1F : RegAddr).toNat ∧ readRegister 0x11 sched1C7 = 0 ∧
    readRegister 0x10 { sched1C7 with rk := #v[0, 0, 0, 0, 0, 0, 0, 0, 0xF1] } = 0xF1 := by decide

theorem witness_ExpandIsInjective : expand 0x35 = expand 0x35 ∧ (0x3C : Byte).extractLsb' 4 2 = (0x3C : Byte).extractLsb' 2 2 := by
  decide

/-- The machine's tables are pinned, and so are tables that differ from them at every entry the source does not fix. -/
theorem witness_SourceVectorsHoldForPinnedTables :
    pinned params ∧
    pinned {
      sbox1 := #v[5, 0, 0, 0, 0, 0, 0, 0, 0, 4, 0, 0, 7, 0, 0, 0]
      sbox2 := #v[0, 1, 6, 0, 7, 0, 0, 0, 0, 0, 0, 0, 0, 0, 0, 0]
      filler := 0xFF } ∧
    (let keys : Nat → Byte := fun i => if i = 0 then 0x9D else 0x3B; keys 0 = 0x9D ∧ keys 1 = 0x3B) ∧
    (let keys : Nat → Byte := fun _ => 0xE3; keys 0 = 0xE3) := by decide

theorem witness_ExpandCommand : opField 0x7FFFFFF5 = 0x7 := by decide

theorem witness_ConfuseCommand : opField 0x80000074 = 0x8 := by decide

theorem witness_FeistelCommand : opField 0x600E3035 = 0x6 := by decide

theorem witness_RoundKeyIsRotatingWindow : (0 ≤ 8 ∧ 0 < 8) ∧ (8 ≤ 8 ∧ 7 < 8) ∧ roundKey 0x1C7 8 = 0xF1 := by decide

theorem witness_RoundKeyIdentities :
    0 ≤ 8 ∧ 8 ≤ 8 ∧ 0 ≤ 7 ∧ 7 ≤ 7 ∧ 0 ≤ 9 ∧ 9 ≤ 9 ∧ roundKey 0x1FF 8 = 0xFF := by decide

theorem witness_SetkeyCommand :
    (State.reset.smode = .idle ∧ (0x1FF : BitVec 12).toNat ≤ 0x1FF) ∧
    (streamEnc.smode ≠ .idle ∧ streamHdr.smode ≠ .idle ∧ (streamDec 0).smode ≠ .idle) ∧
    (State.reset.smode = .idle ∧ 0x1FF < (0x200 : BitVec 12).toNat ∧ 0x1FF < (0xFFF : BitVec 12).toNat) ∧
    opField 0x1FFFF13B = 0x1 ∧ 8 ≤ 8 := by decide

theorem witness_SchedCommand :
    (State.reset.smode = .idle ∧ (0 : Byte).toNat ≤ 9 ∧ (9 : Byte).toNat ≤ 9) ∧ streamEnc.smode ≠ .idle ∧
    (sched1C7.smode = .idle ∧ 9 < (10 : Byte).toNat ∧ 9 < (255 : Byte).toNat) ∧ opField 0x20000104 = 0x2 := by decide

/-- The schedule of `sched1C7` matches its key, and a step from it answers a next state. -/
theorem witness_ScheduleMatchesKeyIsKept :
    ScheduleMatchesKey sched1C7 ∧ sched1C7.kv = true ∧
    step (withScript sched1C7 [.command 0x20000009]) =
      .next { sched1C7 with rk := #v[0xE3, 0xC7, 0x8F, 0x1F, 0x3F, 0x7E, 0xFC, 0xF8, 0xF1], nr := 9 } := by
  refine ⟨?_, rfl, rfl⟩
  intro _
  decide

/-- Two states with the same first two round keys, and another key, another entry beyond NR, and another SMODE. -/
theorem witness_CipherReadsOnlyTheSchedule :
    sched1C7.nr = { streamEnc with key := 0x000, rk := #v[0xE3, 0xC7, 0x55, 0, 0, 0, 0, 0, 0] }.nr ∧
    ∀ i, i < sched1C7.nr.toNat →
      roundKeyEntry sched1C7 i =
        roundKeyEntry { streamEnc with key := 0x000, rk := #v[0xE3, 0xC7, 0x55, 0, 0, 0, 0, 0, 0] } i := by
  decide

theorem witness_CryptIsRoundsThenSwap : 0 < 1 ∧ 0 < 9 := by decide

theorem witness_ZeroRoundsIsIdentity :
    { State.reset with kv := true }.kv = true ∧ { State.reset with kv := true }.nr = 0 ∧
    look (.enc 0xABC) { State.reset with kv := true } State.result = some 0xABC := by decide

theorem witness_DecCommandInvertsEncCommand : sched1C7.kv = true := rfl

/-- One round with any keys, and nine rounds with equal ones. -/
theorem witness_EqualKeysMakeDecEqualEnc :
    (∀ i, i < 1 → roundKey 0x13B i = roundKey 0x13B 0) ∧ ∀ i, i < 9 → roundKey 0x1FF i = roundKey 0x1FF 0 := by decide

theorem witness_EncCommand : sched13B.kv = true ∧ State.reset.kv = false ∧ opField 0x3FFFF8B5 = 0x3 := by decide

theorem witness_DecCommand :
    sched13B.kv = true ∧ State.reset.kv = false ∧ opField 0x400004E5 = 0x4 ∧ { sched13B with nr := 1 }.nr = 1 := by decide

theorem witness_RoundCommand : opField 0x5FFFFD65 = 0x5 := by decide

theorem witness_SencCommand :
    (sched1C7.smode = .idle ∧ sched1C7.kv = true ∧ (0 : Byte).toNat ≤ 2 ∧ (2 : Byte).toNat ≤ 2) ∧
    ((streamEnc.smode ≠ .idle ∨ streamEnc.kv = false) ∧ (State.reset.smode ≠ .idle ∨ State.reset.kv = false)) ∧
    (sched1C7.smode = .idle ∧ sched1C7.kv = true ∧ 2 < (3 : Byte).toNat ∧ 2 < (255 : Byte).toNat) ∧
    opField 0x90000002 = 0x9 := by decide

theorem witness_SdecCommand :
    (sched1C7.smode = .idle ∧ sched1C7.kv = true) ∧
    ((streamHdr.smode ≠ .idle ∨ streamHdr.kv = false) ∧ (State.reset.smode ≠ .idle ∨ State.reset.kv = false)) ∧
    opField 0xAFFFFFFF = 0xA := by decide

theorem witness_SbyteCommand :
    State.reset.smode = .idle ∧ (streamHdr.smode = .decHdr ∧ (2 : Byte).toNat ≤ 2 ∧ 2 < (3 : Byte).toNat) ∧
    ((streamEnc.smode = .enc ∨ streamEnc.smode = .dec) ∧ streamEnc.bcnt = 0) ∧
    (((streamDec 1).smode = .enc ∨ (streamDec 1).smode = .dec) ∧ { streamDec 1 with bcnt := 1 }.bcnt = 1) ∧
    ({ streamEnc with bcnt := 2 }.smode = .enc ∧ 2 ≤ { streamEnc with bcnt := 2 }.bcnt.toNat) ∧
    ({ streamDec 0 with bcnt := 2 }.smode = .dec ∧ 2 ≤ { streamDec 0 with bcnt := 2 }.bcnt.toNat ∧ (streamDec 0).hv = false) ∧
    ({ streamHeld 0 with bcnt := 2 }.smode = .dec ∧ 2 ≤ { streamHeld 0 with bcnt := 2 }.bcnt.toNat ∧ (streamHeld 0).hv = true) ∧
    opField 0xB0000043 = 0xB := by decide

theorem witness_SendCommand :
    State.reset.smode = .idle ∧ streamHdr.smode = .decHdr ∧
    (streamEnc.smode = .enc ∧ { streamEnc with bcnt := 1 }.pad.toNat ≠ (3 - { streamEnc with bcnt := 1 }.bcnt.toNat) % 3) ∧
    (streamEnc.smode = .enc ∧ streamEnc.bcnt = 0 ∧ streamEnc.pad = 0) ∧
    ({ streamEnc with bcnt := 1, pad := 2 }.smode = .enc ∧ { streamEnc with bcnt := 1, pad := 2 }.bcnt = 1) ∧
    ({ streamEnc with bcnt := 2, pad := 1 }.smode = .enc ∧ { streamEnc with bcnt := 2, pad := 1 }.bcnt = 2) ∧
    ((streamDec 0).smode = .dec ∧ { streamDec 0 with bcnt := 1 }.bcnt ≠ 0) ∧
    ((streamDec 2).smode = .dec ∧ (streamDec 2).bcnt = 0 ∧ (streamDec 2).hv = false) ∧
    ((streamHeld 2).smode = .dec ∧ (streamHeld 2).bcnt = 0 ∧ (streamHeld 2).hv = true) ∧ opField 0xC0000000 = 0xC := by
  decide

theorem witness_EncryptionStreamEmitsEncStream :
    sched1C7.smode = .idle ∧ sched1C7.kv = true ∧ encStream (encBlock sched1C7) 0x00 [0x41] = [0x02, 0xA6, 0x50, 0x2D] := by
  decide

/-- Section 3.3: a whole chunk truncated by two, and a header alone. -/
theorem witness_DecryptionStreamEmitsDecStream :
    sched1C7.smode = .idle ∧ sched1C7.kv = true ∧
    decStream (decBlock sched1C7) [0x02, 0x11, 0x22, 0x33] = some [0xAC] ∧ decStream (decBlock sched1C7) [0x02] = some [] := by
  decide

/-- Section 3.3: no header, a header above 2, and one and two bytes of a chunk. -/
theorem witness_FailingDecStreamRaisesFormatError :
    sched1C7.smode = .idle ∧ sched1C7.kv = true ∧
    [[], [0x03], [0x00, 0x11], [0x00, 0x11, 0x22]].map (decStream (decBlock sched1C7)) = [none, none, none, none] := by decide

theorem witness_StreamRoundTrip :
    (∀ b : Block12, (b ^^^ 0x123) ^^^ 0x123 = b) ∧ sched1C7.smode = .idle ∧ sched1C7.kv = true := by
  refine ⟨fun b => ?_, rfl, rfl⟩
  rw [BitVec.xor_assoc, BitVec.xor_self, BitVec.xor_zero]

theorem witness_OutcomeIsFirstFailingCheck :
    exec (.senc 3) sched1C7 = .next { sched1C7 with lasterr := 3, sticky := 0b00100 } ∧ (Instr.senc 3) ≠ .clrerr ∧
    StreamActive streamEnc ∧ State.reset.kv = false := by
  refine ⟨rfl, ?_⟩
  decide

theorem witness_SequenceErrorCauses :
    exec (.enc 0x123) State.reset = .next { State.reset with lasterr := 4, sticky := 0b01000 } := rfl

theorem witness_FormatErrorCauses :
    exec .send { streamEnc with bcnt := 1 } = .next { sched1C7 with out := [0x00], ocnt := 1, lasterr := 2, sticky := 0b00010 } ∧
    exec (.sbyte 3) streamHdr = .next { sched1C7 with lasterr := 2, sticky := 0b00010 } := ⟨rfl, rfl⟩

theorem witness_ErrorsArePrecise :
    exec (.sched 10) sched1C7 = .next { sched1C7 with kv := false, lasterr := 1, sticky := 0b00001 } ∧
    { sched1C7 with kv := false, lasterr := 1, sticky := 0b00001 }.lasterr ≠ 0 := ⟨rfl, by decide⟩

theorem witness_OnlyClrerrAndResetClearSticky :
    exec (.sched 10) sched1C7 = .next { sched1C7 with kv := false, lasterr := 1, sticky := 0b00001 } ∧
    step (withScript { sched1C7 with sticky := 0b00001 } [.command 0xD0000000]) = .next sched1C7 ∧
    step (withScript { sched1C7 with sticky := 0b00001 } [.reset]) = .next State.reset ∧
    { sched1C7 with sticky := 0b00001 }.sticky.getLsbD 0 = true ∧ sched1C7.sticky.getLsbD 0 = false :=
  ⟨rfl, rfl, rfl, rfl, rfl⟩

theorem witness_OnlyListedWritersWriteARegister :
    exec (.setkey 0x13B) sched1C7 = .next { sched1C7 with key := 0x13B, kv := false } ∧ (0x13B : Key9) ≠ sched1C7.key ∧
    exec (.senc 1) sched1C7 = .next { sched1C7 with smode := .enc, pad := 1, out := [0x01], ocnt := 1 } ∧
    exec (.enc 0x8B5) streamEnc = .next { streamEnc with result := 0x34A } ∧ OutsideFramer (.enc 0x8B5) = true :=
  ⟨rfl, by decide, rfl, rfl, rfl⟩

theorem witness_KeysAreLockedDuringStream :
    StreamActive streamEnc ∧ exec (.enc 0x8B5) streamEnc = .next { streamEnc with result := 0x34A } :=
  ⟨by decide, rfl⟩

theorem witness_CommandsOnlyAppendToOut :
    exec (.senc 2) sched1C7 = .next { sched1C7 with smode := .enc, pad := 2, out := [0x02], ocnt := 1 } := rfl

theorem witness_NopAndClrerrCommands :
    opField 0x0FFFFFFF = 0x0 ∧ opField 0xDFFFFFFF = 0xD ∧ Instr.nop ≠ .clrerr ∧
    look .nop { streamEnc with sticky := 0b10001 } State.sticky = some 0b10001 ∧ (0b10001#5).getLsbD 4 = true := by decide

theorem witness_ReservedOpcodesRaiseReservedCommand : opField 0xE0000000 = 0xE ∧ opField 0xFFFFFFFF = 0xF := by decide

/-- The state of P5 after line 7, one byte emitted and taken before, has the invariants. -/
theorem witness_InvariantIsKeptByEveryStep :
    Inv { streamHeld 0 with sticky := 0b00010, out := [0x02], ocnt := 1, taken := 1, got := [0x02] } ∧
    step { streamHeld 0 with sticky := 0b00010, out := [0x02], ocnt := 1, taken := 1, got := [0x02] } =
      .next { streamHeld 0 with sticky := 0b00010, out := [0x02], ocnt := 1, taken := 1, got := [0x02] } := by
  refine ⟨?_, rfl⟩
  exact {
    schedule := by intro _; decide
    roundCount := by decide
    outcome := by decide
    padding := by decide
    buffered := by decide
    holdOnlyInDec := by decide
    collectsInStream := by decide
    streamHasKeys := by decide
    count := by decide
    recorded := by intro e; cases e <;> decide
    takenEmitted := by decide
    takenInOrder := ⟨[], rfl⟩ }

theorem witness_PseudoCommandsAssembleToTheirExpansions :
    4095 < 2 ^ 12 ∧ 255 < 2 ^ 8 ∧ ([0, 255] : List Nat) ≠ [] ∧ (∀ d ∈ ([0, 255] : List Nat), d < 2 ^ 8) ∧
    ∀ d ∈ ([] : List Nat), d < 2 ^ 8 := by decide

theorem witness_OversizedOperandIsAssemblerError :
    (256 ∈ ([0, 256] : List Nat) ∧ 256 ∈ ([256] : List Nat)) ∧ (2 ^ 12 ≤ 4096 ∨ 2 ^ 8 ≤ 0) ∧ 2 ^ 12 ≤ 4096 ∧ 2 ^ 8 ≤ 256 ∧ (2 ^ 12 ≤ 0 ∨ 2 ^ 8 ≤ 256) ∧ (2 ^ 6 ≤ 64 ∨ 2 ^ 8 ≤ 0) ∧ 2 ^ 6 ≤ 64 ∧ 2 ^ 32 ≤ 4294967296 := by
  decide

end Sys2Proof.Tests
end

section
/-! SUPPORT. The bits of the STATUS image (10_state.md R38), and what a command and a step leave in LASTERR and STICKY
(R29, R30, 60_exceptions.md R210). -/

namespace Sys2Proof.Proofs.Status

open Sys2Proof Sys2Proof.Machine Sys2Proof.Safety

/-! ## The STATUS image -/

/-- Address 0x01 of the read map (20_memory.md R53). -/
theorem readRegister_status (s : State) : readRegister 0x01 s = statusImage s := rfl

/-- The STATUS image bit by bit, in the fields of the R38 table. -/
theorem statusImage_getLsbD (s : State) (i : Nat) :
    (statusImage s).getLsbD i =
      if i < 3 then s.lasterr.getLsbD i
      else if i < 4 then false
      else if i < 9 then s.sticky.getLsbD (i - 4)
      else if i < 10 then s.kv
      else if i < 12 then (modeCode s.smode).getLsbD (i - 10)
      else if i < 14 then s.pad.getLsbD (i - 12)
      else if i < 16 then s.bcnt.getLsbD (i - 14)
      else if i < 17 then s.hv
      else false := by
  simp only [statusImage, BitVec.getLsbD_append, BitVec.getLsbD_zero, BitVec.getLsbD_ofBool]
  -- left: the appended fields counted off by their widths, i - 3 - 1 - 5 - …
  grind

/-- A multi-bit field of the STATUS image is the register all of whose bits stand in it. -/
theorem statusImage_extract_eq {s : State} {start len : Nat} {f : BitVec len}
    (h : ∀ j < len, (statusImage s).getLsbD (start + j) = f.getLsbD j) :
    (statusImage s).extractLsb' start len = f := by
  apply BitVec.eq_of_getLsbD_eq
  intro j hj
  simp only [BitVec.getLsbD_extractLsb', hj, decide_true, Bool.true_and, h j hj]

theorem statusImage_lasterr (s : State) : (statusImage s).extractLsb' 0 3 = s.lasterr :=
  statusImage_extract_eq fun j hj => by grind [statusImage_getLsbD]

theorem statusImage_smode (s : State) : (statusImage s).extractLsb' 10 2 = modeCode s.smode :=
  statusImage_extract_eq fun j hj => by grind [statusImage_getLsbD]

theorem statusImage_pad (s : State) : (statusImage s).extractLsb' 12 2 = s.pad :=
  statusImage_extract_eq fun j hj => by grind [statusImage_getLsbD]

theorem statusImage_bcnt (s : State) : (statusImage s).extractLsb' 14 2 = s.bcnt :=
  statusImage_extract_eq fun j hj => by grind [statusImage_getLsbD]

theorem statusImage_reserved (s : State) : (statusImage s).extractLsb' 17 15 = 0 :=
  statusImage_extract_eq fun j hj => by grind [statusImage_getLsbD]

/-- Settles O14: the bits of the image are those of the R38 table, and each field is its bits. -/
theorem statusImageLayout : Obligations.StatusImageLayout := by
  unfold Obligations.StatusImageLayout
  intro s
  rw [readRegister_status]
  exact ⟨statusImage_lasterr s, statusImage_getLsbD s 3, statusImage_getLsbD s 4, statusImage_getLsbD s 5,
    statusImage_getLsbD s 6, statusImage_getLsbD s 7, statusImage_getLsbD s 8, statusImage_getLsbD s 9,
    (statusImage_smode s).trans (by cases s.smode <;> rfl), statusImage_pad s, statusImage_bcnt s,
    statusImage_getLsbD s 16, statusImage_reserved s⟩

/-! ## What a command leaves in LASTERR and STICKY -/

/-- A command either raises an error, recording its code and setting its sticky bit, or succeeds; only CLRERR, which succeeds,
clears STICKY. -/
theorem exec_outcome {i : Instr} {s t : State} (h : exec i s = .next t) :
    (i = .clrerr ∧ t.lasterr = 0 ∧ t.sticky = 0) ∨
      ∃ e : Option ErrorKind, t.lasterr = outcomeCode e ∧ t.sticky = stickyAfter s.sticky e := by
  revert i s t
  apply exec_cases
  case clrerr => exact fun _ => .inl ⟨rfl, rfl, rfl⟩
  case reservedE | reservedF => exact fun _ => .inr ⟨some .reservedCommand, rfl, rfl⟩
  case sequenceError => exact fun _ _ _ => .inr ⟨some .sequenceError, rfl, rfl⟩
  case keyRefused => exact fun _ _ _ _ => .inr ⟨some .invalidArgument, rfl, rfl⟩
  case padRefused => exact fun _ _ _ _ _ => .inr ⟨some .invalidArgument, rfl, rfl⟩
  case countRefused => exact fun _ _ _ _ => .inr ⟨some .invalidRoundCount, rfl, rfl⟩
  case formatError => exact fun _ _ _ _ => .inr ⟨some .formatError, rfl, rfl⟩
  -- every other outcome is a success
  all_goals intros; exact .inr ⟨none, rfl, rfl⟩

/-- The sticky bit of a kind is bit c-1 for its code c (60_exceptions.md R210). -/
theorem stickyBit_getLsbD_code (e : ErrorKind) : (stickyBit e).getLsbD ((errorCode e).toNat - 1) = true := by
  cases e <;> rfl

/-- Raising an error, or none, clears no sticky bit. -/
theorem stickyAfter_getLsbD_of_set {k : BitVec 5} {j : Nat} (h : k.getLsbD j = true) (e : Option ErrorKind) :
    (stickyAfter k e).getLsbD j = true := by
  cases e with
  | none => exact h
  | some e => simp only [stickyAfter, BitVec.getLsbD_or, h, Bool.true_or]

/-- A command that raises an error leaves the sticky bit of its code set (60_exceptions.md R210). -/
theorem exec_sets_sticky_of_error {i : Instr} {s t : State} (h : exec i s = .next t) (he : t.lasterr ≠ 0) :
    t.sticky.getLsbD (t.lasterr.toNat - 1) = true := by
  obtain ⟨-, hl, -⟩ | ⟨e, hl, hs⟩ := exec_outcome h
  · exact absurd hl he
  · cases e with
    | none => exact absurd hl he
    | some e => simp only [hl, hs, outcomeCode, stickyAfter, BitVec.getLsbD_or, stickyBit_getLsbD_code, Bool.or_true]

/-- No command but CLRERR clears a sticky bit (10_state.md R30). -/
theorem exec_keeps_sticky {i : Instr} {s t : State} (h : exec i s = .next t) (hi : i ≠ .clrerr) {j : Nat}
    (hj : s.sticky.getLsbD j = true) : t.sticky.getLsbD j = true := by
  obtain ⟨hc, -, -⟩ | ⟨e, -, hs⟩ := exec_outcome h
  · exact absurd hc hi
  · rw [hs]; exact stickyAfter_getLsbD_of_set hj e

/-- Taking an output byte changes no core register (20_memory.md R55). -/
@[simp] theorem hostTake_sticky (s : State) : (hostTake s).sticky = s.sticky := by
  obtain ⟨b, -, h⟩ | ⟨-, h⟩ := hostTake_cases s <;> rw [h]

/-- A step that clears a sticky bit runs CLRERR or performs the reset (10_state.md R30). -/
theorem clrerr_or_reset_of_step_clears_sticky {s t : State} (h : step s = .next t) {j : Nat}
    (hs : s.sticky.getLsbD j = true) (ht : t.sticky.getLsbD j = false) :
    (∃ w rest, s.script = .command w :: rest ∧ decode w = .clrerr) ∨ ∃ rest, s.script = .reset :: rest := by
  have kept : t.sticky.getLsbD j ≠ true := by simp [ht]
  rcases step_eq_next.mp h with ⟨-, rfl⟩ | ⟨w, rest, hw, hx⟩ | ⟨a, rest, -, rfl⟩ | ⟨rest, -, rfl⟩ | ⟨rest, hr, -⟩
  · exact absurd hs kept
  · by_cases hd : decode w = .clrerr
    · exact .inl ⟨w, rest, hw, hd⟩
    · exact absurd (exec_keeps_sticky hx hd hs) kept
  · exact absurd hs kept
  · exact absurd (by simpa using hs) kept
  · exact .inr ⟨rest, hr⟩

/-- Settles O51: every outcome of a command but CLRERR's keeps the set bits, and of the host's other interactions only reset
writes STICKY. -/
theorem onlyClrerrAndResetClearSticky : Obligations.OnlyClrerrAndResetClearSticky := by
  unfold Obligations.OnlyClrerrAndResetClearSticky
  exact ⟨fun _ _ _ => exec_sets_sticky_of_error, fun _ _ h _ => clrerr_or_reset_of_step_clears_sticky h,
    fun s => ⟨{ s with sticky := 0, lasterr := 0 }, rfl, rfl⟩, rfl⟩

/-! ## The reset state -/

/-- Settles O13: the reset state is the R41 table. -/
theorem resetValues : Obligations.ResetValues := by
  unfold Obligations.ResetValues
  decide

end Sys2Proof.Proofs.Status
end

section
/-! SUPPORT. The register read map (20_memory.md R53, R54): the round-key window 0x08 to 0x10 and the reserved addresses
after it. -/

namespace Sys2Proof.Proofs.ReadMap

open Sys2Proof Sys2Proof.Machine

/-- From address 0x08 on the map is a window on the round-key file, and reserved where the file ends. -/
theorem readRegister_of_eight_le {a : RegAddr} (ha : 8 ≤ a.toNat) (s : State) :
    readRegister a s = if h : a.toNat - 8 < 9 then zext32 s.rk[a.toNat - 8] else 0x00000000 := by
  unfold readRegister
  split
  -- the default arm is the statement; the eight named addresses lie below 0x08
  case h_9 => rfl
  all_goals omega

/-- Address 0x08 + i of the read map (20_memory.md R53). -/
theorem readRegister_roundKey (i : Fin 9) (s : State) :
    readRegister (BitVec.ofNat 5 (0x08 + i.val)) s = zext32 s.rk[i] := by
  have ha : (BitVec.ofNat 5 (0x08 + i.val)).toNat = 8 + i.val := Nat.mod_eq_of_lt (by omega)
  rw [readRegister_of_eight_le (by omega)]
  simp [ha]

/-- Every address past the round-key window is reserved (20_memory.md R54). -/
theorem readRegister_reserved {a : RegAddr} (ha : 0x11 ≤ a.toNat) (s : State) : readRegister a s = 0x00000000 := by
  rw [readRegister_of_eight_le (by omega), dif_neg (by omega)]

/-- Settles O15: the eight addresses below 0x08 name their arm of the map, and those from 0x08 on are the round-key window
and what follows it. -/
theorem registerReadMap : Obligations.RegisterReadMap := by
  unfold Obligations.RegisterReadMap
  exact fun s => ⟨rfl, Status.readRegister_status s, rfl, rfl, rfl, rfl, rfl, rfl,
    fun i => readRegister_roundKey i s, fun _ ha => readRegister_reserved ha s⟩

end Sys2Proof.Proofs.ReadMap
end

section
/-! SUPPORT. The bits a row's format reads (30_encoding.md R83): a field all of whose bits the row reads agrees in two words
that differ in ignored bits only, and is encoded outside the ignored bits (R84). -/

namespace Sys2Proof.Proofs.IgnoredBits

open Sys2Proof Sys2Proof.Machine

/-! ## Decoding -/

/-- Words that agree on the bits of `m` agree on every field inside `m`. -/
theorem extractLsb'_eq_of_agree {w v m : Word} {start len : Nat} (h : (w ^^^ v) &&& m = 0)
    (hm : m.extractLsb' start len = BitVec.allOnes len) : w.extractLsb' start len = v.extractLsb' start len := by
  have field := congrArg (BitVec.extractLsb' start len) h
  rw [BitVec.extractLsb'_and, hm, BitVec.and_allOnes, BitVec.extractLsb'_xor, BitVec.ofNat_eq_ofNat,
    BitVec.extractLsb'_zero] at field
  exact BitVec.xor_eq_zero_iff.mp field

/-- Every row reads OP (R81). -/
theorem usedBits_op (op : BitVec 4) : (usedBits op).extractLsb' 28 4 = BitVec.allOnes 4 := by
  revert op; decide

/-- The decoder reads OP and the fields of OP's row, and nothing else (R84). -/
theorem decode_eq_of_agree {w v : Word} (h : (w ^^^ v) &&& usedBits (opField w) = 0) : decode w = decode v := by
  have hop : opField w = opField v := extractLsb'_eq_of_agree h (usedBits_op _)
  unfold decode
  rw [← hop]
  unfold usedBits at h
  generalize (opField w).toNat = op at h ⊢
  -- in each arm `h` is agreement on the mask of that arm's row
  split
  case h_2 => exact congrArg Instr.setkey (extractLsb'_eq_of_agree h rfl)
  case h_3 => exact congrArg Instr.sched (extractLsb'_eq_of_agree h rfl)
  case h_4 => exact congrArg Instr.enc (extractLsb'_eq_of_agree h rfl)
  case h_5 => exact congrArg Instr.dec (extractLsb'_eq_of_agree h rfl)
  case h_6 => exact congrArg₂ Instr.round (extractLsb'_eq_of_agree h rfl) (extractLsb'_eq_of_agree h rfl)
  case h_7 => exact congrArg₂ Instr.feistel (extractLsb'_eq_of_agree h rfl) (extractLsb'_eq_of_agree h rfl)
  case h_8 => exact congrArg Instr.expand (extractLsb'_eq_of_agree h rfl)
  case h_9 => exact congrArg Instr.confuse (extractLsb'_eq_of_agree h rfl)
  case h_10 => exact congrArg Instr.senc (extractLsb'_eq_of_agree h rfl)
  case h_12 => exact congrArg Instr.sbyte (extractLsb'_eq_of_agree h rfl)
  -- the other commands have no field
  all_goals rfl

/-- A step on a written command word depends on the word only through what it decodes to. -/
theorem step_command_congr {w v : Word} (h : decode w = decode v) (s : State) (rest : List HostMove) :
    step { s with script := .command w :: rest } = step { s with script := .command v :: rest } := by
  simp only [step, h]

/-! ## Encoding -/

/-- A field placed inside `m` has no bit outside `m`. -/
theorem setWidth_shiftLeft_and_not_eq_zero {n start : Nat} {m : Word} (x : BitVec n)
    (hm : m.extractLsb' start n = BitVec.allOnes n) : x.setWidth 32 <<< start &&& ~~~m = 0 := by
  apply BitVec.eq_of_getLsbD_eq
  intro j hj
  by_cases hin : start ≤ j ∧ j - start < n
  · have hmj : m.getLsbD j = true := by
      have bit := congrArg (BitVec.getLsbD · (j - start)) hm
      simpa [hin, Nat.add_sub_cancel' hin.1] using bit
    simp [hmj]
  · have hx : (x.setWidth 32 <<< start).getLsbD j = false := by
      grind
    simp [hx]

/-- The low field, placed at bit 0, likewise. -/
theorem setWidth_and_not_eq_zero {n : Nat} {m : Word} (x : BitVec n)
    (hm : m.extractLsb' 0 n = BitVec.allOnes n) : x.setWidth 32 &&& ~~~m = 0 := by
  simpa using setWidth_shiftLeft_and_not_eq_zero x hm

/-- A command's RKEY is written on bits its row reads. -/
theorem rkeyBits_and_ignored (i : Instr) : i.rkeyBits.setWidth 32 <<< 12 &&& ~~~usedBits i.opcode = 0 := by
  cases i
  case round | feistel => exact setWidth_shiftLeft_and_not_eq_zero _ (by simp only [Instr.opcode]; decide)
  -- every other command has no RKEY
  all_goals simp [Instr.rkeyBits]

/-- A command's low field is written on bits its row reads. -/
theorem lowBits_and_ignored (i : Instr) : i.lowBits.setWidth 32 &&& ~~~usedBits i.opcode = 0 := by
  cases i
  case setkey | enc | dec | round => exact setWidth_and_not_eq_zero _ (by simp only [Instr.opcode]; decide)
  case sched | confuse | senc | sbyte | feistel | expand =>
    rw [Instr.lowBits, BitVec.setWidth_setWidth (by omega)]
    exact setWidth_and_not_eq_zero _ (by simp only [Instr.opcode]; decide)
  -- every other command has no low field
  all_goals simp [Instr.lowBits]

/-- Settles O3: the decoder reads nothing but the used bits, and each part of an encoded word stays within them. -/
theorem ignoredBitsChangeNothing : Obligations.IgnoredBitsChangeNothing := by
  unfold Obligations.IgnoredBitsChangeNothing
  refine ⟨fun w v h => ⟨decode_eq_of_agree h, step_command_congr (decode_eq_of_agree h)⟩, fun i => ?_⟩
  have opBits := setWidth_shiftLeft_and_not_eq_zero i.opcode (usedBits_op i.opcode)
  simp only [encode, BitVec.and_or_distrib_right, opBits, rkeyBits_and_ignored, lowBits_and_ignored, BitVec.or_self]

end Sys2Proof.Proofs.IgnoredBits
end

section
/-! SUPPORT. The expansion (40_bitops.md R100), its command EXPAND (R106) and the decoding of its opcode. -/

namespace Sys2Proof.Proofs.Expand

open Sys2Proof Sys2Proof.Machine

/-! ## The expansion, bit by bit -/

/-- `v[i]` as a value of one bit holds that bit at 0 and nothing above (00_scope.md R9). -/
theorem bitAt_getLsbD {n : Nat} (v : BitVec n) (i j : Nat) :
    (bitAt v i).getLsbD j = (decide (j < 1) && v.getLsbD (i + j)) := by
  rw [bitAt, BitVec.getLsbD_extractLsb']

/-- The bit of the operand that stands at bit `i` of the expansion: the bit list of R100, read from its right end. -/
def expandSource (i : Nat) : Nat := [0, 1, 3, 2, 3, 2, 4, 5].getD i 0

/-- The expansion is the concatenation the list gives (R100). -/
theorem expand_getLsbD (h : Half6) {i : Nat} (hi : i < 8) : (expand h).getLsbD i = h.getLsbD (expandSource i) := by
  simp only [expand, BitVec.getLsbD_append, bitAt_getLsbD]
  interval_cases i <;> simp [expandSource]

/-- Settles O16: each of the eight bits is the operand's bit that the list names. -/
theorem expandIsItsBitList : Obligations.ExpandIsItsBitList := by
  unfold Obligations.ExpandIsItsBitList
  refine ⟨fun h => ?_, by decide⟩
  calc (List.range 8).map (fun j => (expand h).getLsbD (7 - j))
      = (List.range 8).map (fun j => h.getLsbD (expandSource (7 - j))) :=
        List.map_congr_left fun j _ => expand_getLsbD h (by omega)
    _ = [1, 2, 4, 3, 4, 3, 5, 6].map (fun k => h.getLsbD (6 - k)) := rfl

/-! ## The command -/

/-- EXPAND writes RESULT, succeeds and touches nothing else. -/
theorem exec_expand (h : Half6) (s : State) :
    exec (.expand h) s = .next { s with result := (expand h).setWidth 12, lasterr := 0 } := rfl

/-- The row of opcode 7 (30_encoding.md R86). -/
theorem decode_of_opField_expand {w : Word} (h : opField w = 0x7) : decode w = .expand (w.extractLsb' 0 6) := by
  simp only [decode, h]
  rfl

/-- A value zero-extended has only zeros from its own width on. -/
theorem extractLsb'_setWidth_self_eq_zero {n m len : Nat} (x : BitVec n) : (x.setWidth m).extractLsb' n len = 0#len := by
  apply BitVec.eq_of_getLsbD_eq
  intro j hj
  simp

/-- Settles O20, from the command's equation, its row, and the zeros above an extended byte. -/
theorem expandCommand : Obligations.ExpandCommand := by
  unfold Obligations.ExpandCommand
  refine ⟨exec_expand, fun _ => decode_of_opField_expand, fun h => extractLsb'_setWidth_self_eq_zero (expand h), ?_⟩
  -- the corner cases and the example of R106
  decide

end Sys2Proof.Proofs.Expand
end

section
/-! SUPPORT. The round-key function (41_key_schedule.md R120), the commands SETKEY (R122) and SCHED (R123), and the decoding of
their opcodes. -/

namespace Sys2Proof.Proofs.KeySchedule

open Sys2Proof Sys2Proof.Machine

/-! ## The round-key function -/

/-- Rotating left by `i` within 9 bits brings to position `j` the bit `i` places below it, counted modulo 9 (00_scope.md R11). -/
theorem rotl9_getLsbD (v : Key9) {i j : Nat} (hi : i ≤ 9) (hj : j < 9) :
    (rotl9 v i).getLsbD j = v.getLsbD ((j + 9 - i) % 9) := by
  simp only [rotl9, BitVec.getLsbD_or, BitVec.getLsbD_shiftLeft, BitVec.getLsbD_ushiftRight, hj, decide_true, Bool.true_and]
  by_cases h : j < i
  · -- a bit that wrapped around comes from the right shift alone
    rw [Nat.mod_eq_of_lt (by omega), show 9 - i + j = j + 9 - i by omega]
    simp [h]
  · -- a bit that did not comes from the left shift alone: the right shift reads past the key
    have hpast : v.getLsbD (9 - i + j) = false := BitVec.getLsbD_of_ge _ _ (by omega)
    rw [show (j + 9 - i) % 9 = j - i by omega, hpast]
    simp [h]

/-- A round key is the top 8 of the rotated key's 9 bits (R120). -/
theorem roundKey_getLsbD (key : Key9) {i j : Nat} (hi : i ≤ 9) (hj : j < 8) :
    (roundKey key i).getLsbD j = key.getLsbD ((1 + j + 9 - i) % 9) := by
  rw [roundKey, BitVec.getLsbD_extractLsb', rotl9_getLsbD key hi (by omega)]
  simp [hj]

/-- The key 0 gives round keys that are all 0x00 (R122). -/
theorem roundKey_zero_key (i : Nat) : roundKey 0x000 i = 0x00 := by
  simp [roundKey, rotl9]

/-- Settles O23: the formula is the definition, and the window of bits is the rotation read bit by bit. -/
theorem roundKeyIsRotatingWindow : Obligations.RoundKeyIsRotatingWindow := by
  unfold Obligations.RoundKeyIsRotatingWindow
  refine ⟨fun key i hi => ⟨rfl, fun j hj => ?_⟩, ?_⟩
  · rw [roundKey_getLsbD key (by omega) (by omega)]
    congr 1
    omega
  · -- the two lists of the source
    decide

/-! ## SETKEY -/

/-- The row of opcode 1 (30_encoding.md R86). -/
theorem decode_of_opField_setkey {w : Word} (h : opField w = 0x1) : decode w = .setkey (w.extractLsb' 0 12) := by
  simp only [decode, h]
  rfl

/-- Settles O25: the three outcomes are those of SETKEY's inversion lemma. -/
theorem setkeyCommand : Obligations.SetkeyCommand := by
  unfold Obligations.SetkeyCommand
  exact ⟨fun _ _ hs hk => execSetkey_eq_next.mpr (.inr (.inr ⟨hs, hk, rfl⟩)),
    fun _ _ hs => execSetkey_eq_next.mpr (.inl ⟨hs, rfl⟩),
    fun _ _ hs hk => execSetkey_eq_next.mpr (.inr (.inl ⟨hs, hk, rfl⟩)),
    fun _ => decode_of_opField_setkey, fun i _ => roundKey_zero_key i, by decide⟩

/-! ## SCHED -/

/-- The row of opcode 2 (30_encoding.md R86). -/
theorem decode_of_opField_sched {w : Word} (h : opField w = 0x2) : decode w = .sched (w.extractLsb' 0 8) := by
  simp only [decode, h]
  rfl

/-- The state after an accepted SCHED (R123). -/
def scheduled (n : Byte) (s : State) : State :=
  { s with rk := schedule s.key n.toNat, nr := n.setWidth 4, kv := true, lasterr := 0 }

theorem exec_sched_accepted {n : Byte} {s : State} (hs : s.smode = .idle) (hn : n.toNat ≤ 9) :
    exec (.sched n) s = .next (scheduled n s) :=
  execSched_eq_next.mpr (.inr (.inr ⟨hs, hn, rfl⟩))

/-- SCHED writes neither KEY nor SMODE, so a repeated SCHED is accepted again and generates the same file. -/
theorem exec_sched_scheduled {n : Byte} {s : State} (hs : s.smode = .idle) (hn : n.toNat ≤ 9) :
    exec (.sched n) (scheduled n s) = .next (scheduled n s) :=
  exec_sched_accepted (s := scheduled n s) hs hn

/-- Settles O26: the accepted command reaches `scheduled`, where it stays; the refusals are those of SCHED's inversion
lemma. -/
theorem schedCommand : Obligations.SchedCommand := by
  unfold Obligations.SchedCommand
  refine ⟨fun n s hs hn => ⟨scheduled n s, exec_sched_accepted hs hn, fun i => schedule_getElem s.key n.toNat i i.isLt, rfl,
      exec_sched_scheduled hs hn⟩,
    fun _ _ hs => execSched_eq_next.mpr (.inl ⟨hs, rfl⟩),
    fun _ _ hs hn => execSched_eq_next.mpr (.inr (.inl ⟨hs, hn, rfl⟩)),
    fun _ => decode_of_opField_sched, ?_, ?_⟩
  -- the examples of R123
  · exact ⟨_, rfl, by decide⟩
  · exact ⟨_, rfl, by decide⟩

end Sys2Proof.Proofs.KeySchedule
end

section
/-! SUPPORT. The block transforms with zero rounds (42_cipher.md R142), the commands ENC (R143), DEC (R144) and ROUND (R145), and
the decoding of the opcodes of ENC and ROUND. -/

namespace Sys2Proof.Proofs.Cipher

open Sys2Proof Sys2Proof.Machine

/-! ## The transforms with zero rounds -/

/-- Zero rounds end before the final swap (R142). -/
@[simp] theorem encrypt_zero (p : Params) (b : Block12) (keys : Nat → Byte) : encrypt p b keys 0 = b := rfl

@[simp] theorem decrypt_zero (p : Params) (b : Block12) (keys : Nat → Byte) : decrypt p b keys 0 = b := rfl

theorem encBlock_of_nr_zero {s : State} (h : s.nr = 0) (b : Block12) : encBlock s b = b := by
  simp [encBlock, h]

theorem decBlock_of_nr_zero {s : State} (h : s.nr = 0) (b : Block12) : decBlock s b = b := by
  simp [decBlock, h]

/-- Encryption under the current schedule, with the test for zero rounds made on NR itself (R143). -/
theorem encBlock_eq_ite (s : State) (b : Block12) :
    encBlock s b = if s.nr = 0 then b else crypt params b (roundKeyEntry s) s.nr.toNat .fwd := by
  split
  case isTrue h => exact encBlock_of_nr_zero h b
  case isFalse h => exact if_neg (mt BitVec.eq_of_toNat_eq h)

/-! ## ENC and DEC -/

theorem exec_enc_of_kv {s : State} (h : s.kv = true) (b : Block12) :
    exec (.enc b) s = .next { s with result := encBlock s b, lasterr := 0 } :=
  execEnc_eq_next.mpr (.inr ⟨h, rfl⟩)

theorem exec_dec_of_kv {s : State} (h : s.kv = true) (b : Block12) :
    exec (.dec b) s = .next { s with result := decBlock s b, lasterr := 0 } :=
  execDec_eq_next.mpr (.inr ⟨h, rfl⟩)

/-- The row of opcode 3 (30_encoding.md R86). -/
theorem decode_of_opField_enc {w : Word} (h : opField w = 0x3) : decode w = .enc (w.extractLsb' 0 12) := by
  simp only [decode, h]
  rfl

/-- Settles O34: with a schedule ENC writes the block encrypted under it, and its refusal is that of ENC's inversion lemma. -/
theorem encCommand : Obligations.EncCommand := by
  unfold Obligations.EncCommand
  refine ⟨fun b s hkv => ?_, fun _ _ hkv => execEnc_eq_next.mpr (.inl ⟨hkv, rfl⟩), fun _ => decode_of_opField_enc, ?_⟩
  · rw [exec_enc_of_kv hkv, encBlock_eq_ite]
  · -- the example of R143
    exact ⟨_, rfl, by decide⟩

/-- Settles O30: the identity of the transforms is that of the commands, which run them for NR rounds. -/
theorem zeroRoundsIsIdentity : Obligations.ZeroRoundsIsIdentity := by
  unfold Obligations.ZeroRoundsIsIdentity
  refine ⟨fun p b keys => ⟨encrypt_zero p b keys, decrypt_zero p b keys⟩, fun b s hkv hnr => ⟨?_, ?_⟩⟩
  · rw [exec_enc_of_kv hkv, encBlock_of_nr_zero hnr]
  · rw [exec_dec_of_kv hkv, decBlock_of_nr_zero hnr]

/-! ## ROUND -/

/-- The halves of two halves joined (R140). -/
@[simp] theorem leftHalf_append (l r : Half6) : leftHalf (l ++ r) = l := BitVec.extractLsb'_append_eq_left

@[simp] theorem rightHalf_append (l r : Half6) : rightHalf (l ++ r) = r := BitVec.extractLsb'_append_eq_right

/-- The new left half is the old right half: a round makes no swap of its own (R140). -/
theorem leftHalf_feistelRound (p : Params) (b : Block12) (k : Byte) : leftHalf (feistelRound p b k) = rightHalf b :=
  leftHalf_append _ _

theorem rightHalf_feistelRound (p : Params) (b : Block12) (k : Byte) :
    rightHalf (feistelRound p b k) = leftHalf b ^^^ feistel p (rightHalf b) k :=
  rightHalf_append _ _

/-- ROUND writes RESULT and succeeds, whatever KV is (R145). -/
theorem exec_round (b : Block12) (k : Byte) (s : State) :
    exec (.round b k) s = .next { s with result := feistelRound params b k, lasterr := 0 } := rfl

/-- The row of opcode 5 (30_encoding.md R86). -/
theorem decode_of_opField_round {w : Word} (h : opField w = 0x5) :
    decode w = .round (w.extractLsb' 0 12) (w.extractLsb' 12 8) := by
  simp only [decode, h]
  rfl

/-- Settles O36: RESULT is the round's block, given by its two halves. -/
theorem roundCommand : Obligations.RoundCommand := by
  unfold Obligations.RoundCommand
  refine ⟨fun b k s => ⟨_, exec_round b k s, rfl, leftHalf_feistelRound params b k, rightHalf_feistelRound params b k⟩,
    fun _ => decode_of_opField_round, ?_⟩
  -- the two examples of R145, which are the vectors of R140
  decide

end Sys2Proof.Proofs.Cipher
end

section
/-! SUPPORT. The framer's commands SENC (43_framer.md R165), SDEC (R166), SBYTE (R167) and SEND (R168), and the decoding of
their opcodes. -/

namespace Sys2Proof.Proofs.Framer

open Sys2Proof Sys2Proof.Machine

/-! ## The held chunk -/

theorem heldBytes_of_hv {s : State} (h : s.hv = true) : heldBytes s = [s.hold.b0, s.hold.b1, s.hold.b2] := if_pos h

theorem heldBytes_of_not_hv {s : State} (h : s.hv = false) : heldBytes s = [] := by
  simp [heldBytes, h]

/-! ## SBYTE -/

/-- The row of opcode 0xB (30_encoding.md R86). -/
theorem decode_of_opField_sbyte {w : Word} (h : opField w = 0xB) : decode w = .sbyte (w.extractLsb' 0 8) := by
  simp only [decode, h]
  rfl

/-- In either direction a byte that does not complete its chunk is buffered at BCNT (43_framer.md R167). -/
theorem exec_sbyte_buffered {s : State} (hm : s.smode = .enc ∨ s.smode = .dec) (hb : s.bcnt.toNat < 2) (d : Byte) :
    exec (.sbyte d) s = .next { s with buf := setByte s.buf s.bcnt.toNat d, bcnt := s.bcnt + 1, lasterr := 0 } :=
  execSbyte_eq_next.mpr (.inr (.inr (.inr (.inl ⟨hm, hb, rfl⟩))))

theorem exec_sbyte_first {s : State} (hm : s.smode = .enc ∨ s.smode = .dec) (hb : s.bcnt = 0) (d : Byte) :
    exec (.sbyte d) s = .next { s with buf := { s.buf with b0 := d }, bcnt := 1, lasterr := 0 } := by
  rw [exec_sbyte_buffered hm (by simp [hb]), hb]
  rfl

theorem exec_sbyte_second {s : State} (hm : s.smode = .enc ∨ s.smode = .dec) (hb : s.bcnt = 1) (d : Byte) :
    exec (.sbyte d) s = .next { s with buf := { s.buf with b1 := d }, bcnt := 2, lasterr := 0 } := by
  rw [exec_sbyte_buffered hm (by simp [hb]), hb]
  rfl

/-- In DEC the output lags one chunk behind: what HOLD held before is emitted (43_framer.md R167). -/
theorem exec_sbyte_completes_dec {s : State} (hm : s.smode = .dec) (hb : 2 ≤ s.bcnt.toNat) (d : Byte) :
    exec (.sbyte d) s = .next { s with
      bcnt := 0, out := s.out ++ heldBytes s, ocnt := s.ocnt + BitVec.ofNat 32 (heldBytes s).length,
      hold := decChunk s ⟨s.buf.b0, s.buf.b1, d⟩, hv := true, lasterr := 0 } :=
  execSbyte_eq_next.mpr (.inr (.inr (.inr (.inr (.inr ⟨hm, hb, rfl⟩)))))

/-- Settles O41: the cases of SBYTE's inversion lemma, the buffered byte split by BCNT and the chunk completed in DEC by HV. -/
theorem sbyteCommand : Obligations.SbyteCommand := by
  unfold Obligations.SbyteCommand
  refine ⟨fun _ _ hm => execSbyte_eq_next.mpr (.inl ⟨hm, rfl⟩),
    fun _ _ hm hd => execSbyte_eq_next.mpr (.inr (.inr (.inl ⟨hm, hd, rfl⟩))),
    fun _ _ hm hd => execSbyte_eq_next.mpr (.inr (.inl ⟨hm, hd, rfl⟩)),
    fun d _ hm hb => exec_sbyte_first hm hb d,
    fun d _ hm hb => exec_sbyte_second hm hb d,
    fun _ _ hm hb => execSbyte_eq_next.mpr (.inr (.inr (.inr (.inr (.inl ⟨hm, hb, rfl⟩))))),
    fun d s hm hb hv => ?nothingHeld, fun d s hm hb hv => ?chunkHeld, fun _ => decode_of_opField_sbyte⟩
  case nothingHeld =>
    rw [exec_sbyte_completes_dec hm hb, heldBytes_of_not_hv hv]
    simp
  case chunkHeld =>
    rw [exec_sbyte_completes_dec hm hb, heldBytes_of_hv hv]
    rfl

/-! ## SEND -/

/-- The row of opcode 0xC (30_encoding.md R86). -/
theorem decode_of_opField_send {w : Word} (h : opField w = 0xC) : decode w = .send := by
  simp only [decode, h]
  rfl

/-- The three endings of a stream that are a FormatError (43_framer.md R168). -/
theorem exec_send_aborts {s : State}
    (h : s.smode = .decHdr ∨ (s.smode = .enc ∧ s.pad.toNat ≠ (3 - s.bcnt.toNat) % 3) ∨
      (s.smode = .dec ∧ s.bcnt.toNat ≠ 0)) :
    exec .send s = .next { s with
      smode := .idle, bcnt := 0, hv := false, lasterr := 2, sticky := s.sticky ||| 0b00010 } :=
  execSend_eq_next.mpr (.inr (.inl ⟨h, rfl⟩))

theorem exec_send_enc_whole {s : State} (hm : s.smode = .enc) (hb : s.bcnt = 0) (hp : s.pad = 0) :
    exec .send s = .next { s with smode := .idle, bcnt := 0, hv := false, lasterr := 0 } :=
  execSend_eq_next.mpr (.inr (.inr (.inl ⟨hm, by simp [hb, hp], by simp [hb], rfl⟩)))

/-- An encryption stream that ends inside a chunk, with the header for it: the filled chunk is emitted encrypted
(43_framer.md R168). -/
theorem exec_send_enc_partial {s : State} (hm : s.smode = .enc) (hp : s.pad.toNat = (3 - s.bcnt.toNat) % 3)
    (hb : s.bcnt.toNat ≠ 0) :
    exec .send s = .next { s with
      buf := fillFrom s.bcnt.toNat 0x00 s.buf
      out := s.out ++ chunkBytes (encChunk s (fillFrom s.bcnt.toNat 0x00 s.buf))
      ocnt := s.ocnt + 3, smode := .idle, bcnt := 0, hv := false, lasterr := 0 } :=
  execSend_eq_next.mpr (.inr (.inr (.inr (.inl ⟨hm, hp, hb, rfl⟩))))

/-- A decryption stream that ends after whole chunks: the held chunk is the final one (43_framer.md R168). -/
theorem exec_send_dec {s : State} (hm : s.smode = .dec) (hb : s.bcnt = 0) :
    exec .send s = .next { s with
      out := s.out ++ (heldBytes s).take (3 - s.pad.toNat)
      ocnt := s.ocnt + BitVec.ofNat 32 ((heldBytes s).take (3 - s.pad.toNat)).length
      smode := .idle, bcnt := 0, hv := false, lasterr := 0 } :=
  execSend_eq_next.mpr (.inr (.inr (.inr (.inr ⟨hm, by simp [hb], rfl⟩))))

/-- Settles O42: the cases of SEND's inversion lemma, the partial chunk of ENC split by BCNT and the end of DEC by HV. -/
theorem sendCommand : Obligations.SendCommand := by
  unfold Obligations.SendCommand
  refine ⟨fun _ hm => execSend_eq_next.mpr (.inl ⟨hm, rfl⟩),
    fun _ hm => exec_send_aborts (.inl hm),
    fun _ hm hp => exec_send_aborts (.inr (.inl ⟨hm, hp⟩)),
    fun _ => exec_send_enc_whole,
    fun s hm hb hp => ?oneByte, fun s hm hb hp => ?twoBytes,
    fun _ hm hb => exec_send_aborts (.inr (.inr ⟨hm, fun h => hb (BitVec.eq_of_toNat_eq h)⟩)),
    fun s hm hb hv => ?nothingHeld, fun s hm hb hv => ?chunkHeld, fun _ => decode_of_opField_send⟩
  -- the bytes of BUF from BCNT on are the filler's, by evaluation of `fillFrom` at 1 and at 2
  case oneByte =>
    rw [exec_send_enc_partial hm (by simp [hb, hp]) (by simp [hb]), hb]
    rfl
  case twoBytes =>
    rw [exec_send_enc_partial hm (by simp [hb, hp]) (by simp [hb]), hb]
    rfl
  case nothingHeld =>
    rw [exec_send_dec hm hb, heldBytes_of_not_hv hv]
    simp
  case chunkHeld =>
    have hlen : ([s.hold.b0, s.hold.b1, s.hold.b2].take (3 - s.pad.toNat)).length = 3 - s.pad.toNat :=
      List.length_take_of_le (Nat.sub_le 3 _)
    rw [exec_send_dec hm hb, heldBytes_of_hv hv, hlen]

/-! ## SENC and SDEC -/

/-- The row of opcode 9 (30_encoding.md R86). -/
theorem decode_of_opField_senc {w : Word} (h : opField w = 0x9) : decode w = .senc (w.extractLsb' 0 8) := by
  simp only [decode, h]
  rfl

/-- The row of opcode 0xA (30_encoding.md R86). -/
theorem decode_of_opField_sdec {w : Word} (h : opField w = 0xA) : decode w = .sdec := by
  simp only [decode, h]
  rfl

/-- An encryption stream is opened with its header emitted (43_framer.md R165). -/
theorem exec_senc_opens {p : Byte} {s : State} (hm : s.smode = .idle) (hk : s.kv = true) (hp : p.toNat ≤ 2) :
    exec (.senc p) s = .next { s with
      pad := p.setWidth 2, bcnt := 0, hv := false, smode := .enc, out := s.out ++ [p], ocnt := s.ocnt + 1,
      lasterr := 0 } :=
  execSenc_eq_next.mpr (.inr (.inr ⟨hm, hk, hp, rfl⟩))

/-- A command that answers a state hands it to the commands after it (20_memory.md R51). -/
theorem execAll_cons_of_next {i : Instr} {s t : State} (h : exec i s = .next t) (is : List Instr) :
    execAll (i :: is) s = execAll is t := by
  simp only [execAll, h]

/-- Settles O39: the cases of SENC's inversion lemma; after SENC 0 the stream stands on a whole chunk, which SEND ends. -/
theorem sencCommand : Obligations.SencCommand := by
  unfold Obligations.SencCommand
  refine ⟨fun _ _ => exec_senc_opens, fun _ _ h => execSenc_eq_next.mpr (.inl ⟨h, rfl⟩),
    fun _ _ hm hk hp => execSenc_eq_next.mpr (.inr (.inl ⟨hm, hk, hp, rfl⟩)),
    fun _ => decode_of_opField_senc, fun s hm hk => ?emptyStream⟩
  case emptyStream =>
    rw [execAll_cons_of_next (exec_senc_opens hm hk (by decide)),
      execAll_cons_of_next (exec_send_enc_whole rfl rfl rfl)]
    exact ⟨_, rfl, rfl, rfl, rfl⟩

/-- Settles O40: the two cases of SDEC's inversion lemma. -/
theorem sdecCommand : Obligations.SdecCommand := by
  unfold Obligations.SdecCommand
  exact ⟨fun _ hm hk => execSdec_eq_next.mpr (.inr ⟨hm, hk, rfl⟩), fun _ h => execSdec_eq_next.mpr (.inl ⟨h, rfl⟩),
    fun _ => decode_of_opField_sdec⟩

end Sys2Proof.Proofs.Framer
end

section
/-! SUPPORT. The control commands NOP (44_control.md R190) and CLRERR (R191), the reserved opcodes (R192), and the decoding of
the commands that have no field. -/

namespace Sys2Proof.Proofs.Control

open Sys2Proof Sys2Proof.Machine

/-! ## Decoding -/

/-- Where a row reads no bit but OP's, OP alone gives the command, whatever the other 28 bits are (30_encoding.md R84, R86). -/
theorem decode_of_opField_of_no_field {w : Word} {i : Instr} (hop : opField w = i.opcode)
    (hused : usedBits i.opcode = 0xF0000000) : decode w = i := by
  cases i
  case nop | sdec | send | clrerr | reservedE | reservedF => simp only [decode, hop]; rfl
  -- every other command has a field, so its row reads more than OP
  all_goals exact absurd hused (by simp only [Instr.opcode]; decide)

/-! ## NOP and CLRERR -/

theorem exec_nop (s : State) : exec .nop s = .next { s with lasterr := 0 } := rfl

theorem exec_clrerr (s : State) : exec .clrerr s = .next { s with sticky := 0, lasterr := 0 } := rfl

/-- Settles O55: the two commands' equations, the stickiness of STICKY under every other command, and the two rows. -/
theorem nopAndClrerrCommands : Obligations.NopAndClrerrCommands := by
  unfold Obligations.NopAndClrerrCommands
  exact ⟨exec_nop, exec_clrerr, fun _ _ _ hi h _ => Status.exec_keeps_sticky h hi,
    fun _ hop => decode_of_opField_of_no_field hop rfl, fun _ hop => decode_of_opField_of_no_field hop rfl⟩

/-! ## The reserved opcodes -/

/-- ReservedCommand has code 5, so its sticky bit is bit 4 (60_exceptions.md R210). -/
theorem raise_reservedCommand (s : State) :
    raise .reservedCommand s = .next { s with lasterr := 5, sticky := s.sticky ||| 0b10000 } := rfl

/-- Settles O56: both opcodes are that raise and nothing else, and their rows read OP alone. -/
theorem reservedOpcodesRaiseReservedCommand : Obligations.ReservedOpcodesRaiseReservedCommand := by
  unfold Obligations.ReservedOpcodesRaiseReservedCommand
  exact ⟨raise_reservedCommand, raise_reservedCommand,
    fun _ hop => decode_of_opField_of_no_field hop rfl, fun _ hop => decode_of_opField_of_no_field hop rfl⟩

end Sys2Proof.Proofs.Control
end

section
/-! SUPPORT. The errors of 60_exceptions.md: the first failing check of a command (R213) and the causes it rests on (R201, R202,
R204), the one case analysis that ties it to what the command does, and the statements about errors. -/

namespace Sys2Proof.Proofs.Errors

open Sys2Proof Sys2Proof.Machine Sys2Proof.Safety

/-! ## The causes of the kinds -/

/-- The four cases of 60_exceptions.md R204. -/
theorem sequenceCause_iff {i : Instr} {s : State} :
    SequenceCause i s = true ↔
      ((∃ k, i = .setkey k) ∨ ∃ n, i = .sched n) ∧ s.smode ≠ .idle ∨
      ((∃ b, i = .enc b) ∨ (∃ b, i = .dec b) ∨ (∃ p, i = .senc p) ∨ i = .sdec) ∧ s.kv = false ∨
      ((∃ p, i = .senc p) ∨ i = .sdec) ∧ s.smode ≠ .idle ∨
      ((∃ d, i = .sbyte d) ∨ i = .send) ∧ s.smode = .idle := by
  cases i <;> simp [SequenceCause]

/-- The four cases of 60_exceptions.md R202. -/
theorem formatCause_iff {i : Instr} {s : State} :
    FormatCause i s = true ↔
      (∃ d : Byte, i = .sbyte d ∧ s.smode = .decHdr ∧ 2 < d.toNat) ∨
      (i = .send ∧ s.smode = .decHdr) ∨
      (i = .send ∧ s.smode = .dec ∧ s.bcnt ≠ 0) ∨
      (i = .send ∧ s.smode = .enc ∧ s.pad.toNat ≠ (3 - s.bcnt.toNat) % 3) := by
  cases i
  case sbyte | send => cases hm : s.smode <;> simp [FormatCause, hm]
  -- no other command checks a format
  all_goals simp [FormatCause]

/-- The one case of 60_exceptions.md R201. -/
theorem roundCountCause_iff {i : Instr} : RoundCountCause i = true ↔ ∃ n : Byte, i = .sched n ∧ 9 < n.toNat := by
  cases i <;> simp [RoundCountCause]

/-- The cause of each kind (60_exceptions.md R201 to R205). -/
def causeOf : ErrorKind → Instr → State → Bool
  | .invalidRoundCount, i, _ => RoundCountCause i
  | .formatError, i, s => FormatCause i s
  | .invalidArgument, i, _ => ArgumentCause i
  | .sequenceError, i, s => SequenceCause i s
  | .reservedCommand, i, _ => ReservedCause i

/-- A kind is raised only where its cause stands. -/
theorem causeOf_of_firstError {i : Instr} {s : State} {e : ErrorKind} (h : firstError i s = some e) :
    causeOf e i s = true := by
  simp only [firstError] at h
  split_ifs at h with hc hc hc hc hc <;> cases h <;> exact hc

/-! ## The first failing check, command by command -/

theorem firstError_enc (b : Block12) (s : State) :
    firstError (.enc b) s = if s.kv = false then some .sequenceError else none := by
  simp [firstError, ReservedCause, SequenceCause, ArgumentCause, RoundCountCause, FormatCause, Instr.opcode]

theorem firstError_dec (b : Block12) (s : State) :
    firstError (.dec b) s = if s.kv = false then some .sequenceError else none :=
  firstError_enc b s

theorem firstError_setkey (k : BitVec 12) (s : State) :
    firstError (.setkey k) s =
      if s.smode ≠ .idle then some .sequenceError else if 0x1FF < k.toNat then some .invalidArgument else none := by
  simp [firstError, ReservedCause, SequenceCause, ArgumentCause, RoundCountCause, FormatCause, Instr.opcode]

theorem firstError_sched (n : Byte) (s : State) :
    firstError (.sched n) s =
      if s.smode ≠ .idle then some .sequenceError else if 9 < n.toNat then some .invalidRoundCount else none := by
  simp [firstError, ReservedCause, SequenceCause, ArgumentCause, RoundCountCause, FormatCause, Instr.opcode]

theorem firstError_senc (p : Byte) (s : State) :
    firstError (.senc p) s =
      if s.kv = false ∨ s.smode ≠ .idle then some .sequenceError
      else if 2 < p.toNat then some .invalidArgument else none := by
  simp [firstError, ReservedCause, SequenceCause, ArgumentCause, RoundCountCause, FormatCause, Instr.opcode]

theorem firstError_sdec (s : State) :
    firstError .sdec s = if s.kv = false ∨ s.smode ≠ .idle then some .sequenceError else none := by
  simp [firstError, ReservedCause, SequenceCause, ArgumentCause, RoundCountCause, FormatCause, Instr.opcode]

theorem firstError_sbyte (d : Byte) (s : State) :
    firstError (.sbyte d) s =
      if s.smode = .idle then some .sequenceError
      else if s.smode = .decHdr ∧ 2 < d.toNat then some .formatError else none := by
  simp [firstError, ReservedCause, SequenceCause, ArgumentCause, RoundCountCause, formatCause_iff, Instr.opcode]

theorem firstError_send (s : State) :
    firstError .send s =
      if s.smode = .idle then some .sequenceError
      else if FormatCause .send s then some .formatError else none := by
  simp [firstError, ReservedCause, SequenceCause, ArgumentCause, RoundCountCause, Instr.opcode]

/-- Only a reserved opcode is checked before the sequence, and it has no sequence to check (60_exceptions.md R213). -/
theorem firstError_of_sequenceCause {i : Instr} {s : State} (h : SequenceCause i s = true) :
    firstError i s = some .sequenceError := by
  have hr : ReservedCause i = false := by
    cases i
    case reservedE | reservedF => cases h
    all_goals rfl
  simp [firstError, hr, h]

/-- In a stream, where alone the format is checked, SBYTE and SEND have no check before it. -/
theorem firstError_of_formatCause {i : Instr} {s : State} (h : FormatCause i s = true) :
    firstError i s = some .formatError := by
  obtain ⟨d, rfl, hm, hd⟩ | ⟨rfl, hm⟩ | ⟨rfl, hm, -⟩ | ⟨rfl, hm, -⟩ := formatCause_iff.mp h
  · simp [firstError_sbyte, hm, hd]
  all_goals simp [firstError_send, hm, h]

/-! ## What a command does, by its first failing check -/

/-- What a command writes before it raises a kind: SCHED clears KV, and a FormatError ends the stream (60_exceptions.md R211). -/
def beforeRaise : ErrorKind → State → State
  | .invalidRoundCount, s => { s with kv := false }
  | .formatError, s => endStream s
  | .invalidArgument, s | .sequenceError, s | .reservedCommand, s => s

theorem beforeRaise_sticky (e : ErrorKind) (s : State) : (beforeRaise e s).sticky = s.sticky := by
  cases e <;> rfl

/-- Before a raise, no register but KV and the stream's SMODE, BCNT and HV is written. -/
theorem beforeRaise_frame (e : ErrorKind) (s : State) :
    (beforeRaise e s).result = s.result ∧ (beforeRaise e s).key = s.key ∧ (beforeRaise e s).nr = s.nr ∧
    (beforeRaise e s).rk = s.rk ∧ (beforeRaise e s).buf = s.buf ∧ (beforeRaise e s).hold = s.hold ∧
    (beforeRaise e s).pad = s.pad ∧ SameOutput s (beforeRaise e s) ∧ SameHost s (beforeRaise e s) := by
  cases e <;> simp [beforeRaise, SameOutput, SameHost]

theorem beforeRaise_kv (e : ErrorKind) (s : State) :
    (beforeRaise e s).kv = s.kv ∨ (beforeRaise e s).kv = false ∧ e = .invalidRoundCount := by
  cases e with
  | invalidRoundCount => exact .inr ⟨rfl, rfl⟩
  | _ => exact .inl rfl

theorem beforeRaise_framer (e : ErrorKind) (s : State) :
    SameFramer s (beforeRaise e s) ∨ e = .formatError ∧ (beforeRaise e s).smode = .idle ∧
      (beforeRaise e s).bcnt = 0 ∧ (beforeRaise e s).hv = false := by
  cases e with
  | formatError => exact .inr ⟨rfl, rfl, rfl, rfl⟩
  | _ => exact .inl ⟨rfl, rfl, rfl, rfl, rfl, rfl⟩

/-- A command raises its first failing check, after the writes of that kind and no other; with no failing check it succeeds. -/
theorem exec_firstError {i : Instr} {s t : State} (h : exec i s = .next t) :
    (∃ e, firstError i s = some e ∧ raise e (beforeRaise e s) = .next t) ∨
      (firstError i s = none ∧ t.lasterr = 0 ∧ (i ≠ .clrerr → t.sticky = s.sticky)) := by
  revert i s t
  apply exec_cases
  case reservedE | reservedF => exact fun _ => .inl ⟨.reservedCommand, rfl, rfl⟩
  case sequenceError => exact fun _ _ hc => .inl ⟨.sequenceError, firstError_of_sequenceCause hc, rfl⟩
  case keyRefused =>
    exact fun _ _ hm hk => .inl ⟨.invalidArgument, by simp [firstError_setkey, hm, hk], rfl⟩
  case padRefused =>
    exact fun _ _ hm hk hp => .inl ⟨.invalidArgument, by simp [firstError_senc, hm, hk, hp], rfl⟩
  case countRefused =>
    exact fun _ _ hm hn => .inl ⟨.invalidRoundCount, by simp [firstError_sched, hm, hn], rfl⟩
  case formatError => exact fun _ _ hc _ => .inl ⟨.formatError, firstError_of_formatCause hc, rfl⟩
  case clrerr => exact fun _ => .inr ⟨rfl, rfl, fun hne => absurd rfl hne⟩
  case nop | expand | confuse | feistel | round => intros; exact .inr ⟨rfl, rfl, fun _ => rfl⟩
  case enc | dec => exact fun _ _ _ hk => .inr ⟨by simp [firstError_enc, firstError_dec, hk], rfl, fun _ => rfl⟩
  case keyLoaded => exact fun _ _ hm hk => .inr ⟨by simp [firstError_setkey, hm, hk], rfl, fun _ => rfl⟩
  case scheduled => exact fun _ _ hm hn => .inr ⟨by simp [firstError_sched, hm, hn], rfl, fun _ => rfl⟩
  case encOpened => exact fun _ _ hm hk hp => .inr ⟨by simp [firstError_senc, hm, hk, hp], rfl, fun _ => rfl⟩
  case decOpened => exact fun _ hm hk => .inr ⟨by simp [firstError_sdec, hm, hk], rfl, fun _ => rfl⟩
  case headerTaken => exact fun _ _ hm hd => .inr ⟨by simp [firstError_sbyte, hm, hd], rfl, fun _ => rfl⟩
  case buffered =>
    exact fun _ _ hm _ => .inr ⟨by rcases hm with hm | hm <;> simp [firstError_sbyte, hm], rfl, fun _ => rfl⟩
  case chunkEncrypted | chunkDecrypted =>
    exact fun _ _ _ hm _ => .inr ⟨by simp [firstError_sbyte, hm], rfl, fun _ => rfl⟩
  case encEnded => exact fun _ hm hp _ => .inr ⟨by simp [firstError_send, FormatCause, hm, hp], rfl, fun _ => rfl⟩
  case encFlushed => exact fun _ _ _ hm hp _ => .inr ⟨by simp [firstError_send, FormatCause, hm, hp], rfl, fun _ => rfl⟩
  case decFlushed =>
    exact fun _ hm hb => .inr ⟨by simp [firstError_send, FormatCause, hm, BitVec.eq_of_toNat_eq (y := 0) hb], rfl, fun _ => rfl⟩

/-- LASTERR is the code of the first failing check, or 0 (60_exceptions.md R213). -/
theorem lasterr_eq_outcomeCode_firstError {i : Instr} {s t : State} (h : exec i s = .next t) :
    t.lasterr = outcomeCode (firstError i s) := by
  obtain ⟨e, he, ht⟩ | ⟨hn, ht, -⟩ := exec_firstError h
  · rw [he, raise_eq_next.mp ht]; rfl
  · rw [hn, ht]; rfl

/-- STICKY gains the bit of the first failing check (60_exceptions.md R213); CLRERR alone clears it. -/
theorem sticky_eq_stickyAfter_firstError {i : Instr} {s t : State} (h : exec i s = .next t) (hi : i ≠ .clrerr) :
    t.sticky = stickyAfter s.sticky (firstError i s) := by
  obtain ⟨e, he, ht⟩ | ⟨hn, -, ht⟩ := exec_firstError h
  · rw [he, raise_eq_next.mp ht, beforeRaise_sticky]; rfl
  · rw [hn, ht hi]; rfl

/-- No two outcomes of a command have one code (60_exceptions.md R200). -/
theorem outcomeCode_eq_errorCode_iff {o : Option ErrorKind} {e : ErrorKind} : outcomeCode o = errorCode e ↔ o = some e := by
  cases o with
  | none => cases e <;> decide
  | some e' => cases e' <;> cases e <;> decide

/-- LASTERR names a kind exactly when that kind's check is the first to fail. -/
theorem lasterr_eq_errorCode_iff {i : Instr} {s t : State} (h : exec i s = .next t) {e : ErrorKind} :
    t.lasterr = errorCode e ↔ firstError i s = some e := by
  rw [lasterr_eq_outcomeCode_firstError h, outcomeCode_eq_errorCode_iff]

/-- The whole state after a command whose first failing check is of kind `e`. -/
theorem eq_of_firstError {i : Instr} {s t : State} (h : exec i s = .next t) {e : ErrorKind} (he : firstError i s = some e) :
    t = { beforeRaise e s with lasterr := errorCode e, sticky := (beforeRaise e s).sticky ||| stickyBit e } := by
  obtain ⟨e', he', ht⟩ | ⟨hn, -, -⟩ := exec_firstError h
  · obtain rfl : e' = e := Option.some.inj (he'.symm.trans he)
    exact raise_eq_next.mp ht
  · exact absurd (hn.symm.trans he) (by simp)

/-! ## The statements -/

/-- Settles O47: LASTERR and STICKY are those of the first failing check, and the three examples are the checks of SETKEY, SCHED
and SENC. -/
theorem outcomeIsFirstFailingCheck : Obligations.OutcomeIsFirstFailingCheck := by
  unfold Obligations.OutcomeIsFirstFailingCheck
  refine ⟨fun _ _ _ h => ⟨lasterr_eq_outcomeCode_firstError h, sticky_eq_stickyAfter_firstError h⟩,
    fun s hm => ?setkey, fun s hm => ⟨?sched, ?schedKeepsKv⟩, fun s hk => ?senc⟩
  case setkey => rw [firstError_setkey, if_pos hm]
  case sched => rw [firstError_sched, if_pos hm]
  case schedKeepsKv => exact ⟨_, execSched_eq_next.mpr (.inl ⟨hm, rfl⟩), rfl⟩
  case senc => rw [firstError_senc, if_pos (.inl hk)]

/-- Settles O48: LASTERR is 4 exactly when the sequence check is the first to fail, which is when it fails at all, and nothing is
written before that raise. -/
theorem sequenceErrorCauses : Obligations.SequenceErrorCauses := by
  unfold Obligations.SequenceErrorCauses
  intro i s t h
  have raised : t.lasterr = 4 ↔ firstError i s = some .sequenceError := lasterr_eq_errorCode_iff h (e := .sequenceError)
  constructor
  · rw [raised, ← sequenceCause_iff]
    exact ⟨causeOf_of_firstError, firstError_of_sequenceCause⟩
  · exact fun ht => eq_of_firstError h (raised.mp ht)

/-- Settles O49: LASTERR is 2 exactly when the format check is the first to fail, which is when it fails at all, and the stream is
ended before that raise. -/
theorem formatErrorCauses : Obligations.FormatErrorCauses := by
  unfold Obligations.FormatErrorCauses
  intro i s t h
  have raised : t.lasterr = 2 ↔ firstError i s = some .formatError := lasterr_eq_errorCode_iff h (e := .formatError)
  constructor
  · rw [raised, ← formatCause_iff]
    exact ⟨causeOf_of_firstError, firstError_of_formatCause⟩
  · exact fun ht => eq_of_firstError h (raised.mp ht)

/-- Settles O50: LASTERR not 0 is a first failing check, and before its raise KV is written for InvalidRoundCount alone, the
framer for FormatError alone, and nothing else. -/
theorem errorsArePrecise : Obligations.ErrorsArePrecise := by
  unfold Obligations.ErrorsArePrecise
  intro i s t h ht
  obtain ⟨e, he, hr⟩ | ⟨-, h0, -⟩ := exec_firstError h
  · obtain rfl := raise_eq_next.mp hr
    obtain ⟨hresult, hkey, hnr, hrk, hbuf, hhold, hpad, hout, hhost⟩ := beforeRaise_frame e s
    refine ⟨hresult, hkey, hnr, hrk, hbuf, hhold, hpad, hout, hhost, ?kv, ?framer⟩
    case kv =>
      refine (beforeRaise_kv e s).imp_right ?_
      rintro ⟨hkv, rfl⟩
      exact ⟨hkv, rfl, roundCountCause_iff.mp (causeOf_of_firstError he)⟩
    case framer =>
      refine (beforeRaise_framer e s).imp_right ?_
      rintro ⟨rfl, hended⟩
      exact ⟨rfl, hended⟩
  · exact absurd h0 ht

end Sys2Proof.Proofs.Errors
end

section
/-! SUPPORT. The key lock of 70_reset_and_hazards.md R239: from SENC or SDEC to the stream's end the key registers stand still. -/

namespace Sys2Proof.Proofs.KeyLock

open Sys2Proof Sys2Proof.Machine Sys2Proof.Safety

/-- Only an accepted SETKEY, an accepted SCHED and a refused round count write a key register, and each needs an idle framer. -/
theorem exec_sameKeys_of_streamActive {i : Instr} {s t : State} (h : exec i s = .next t) :
    StreamActive s → SameKeys s t := by
  revert i s t
  apply exec_cases
  case keyLoaded | scheduled | countRefused => exact fun _ _ hidle _ hs => absurd hidle hs
  all_goals intros; exact ⟨rfl, rfl, rfl, rfl⟩

theorem exec_setkey_of_streamActive (k : BitVec 12) {s : State} (hs : StreamActive s) :
    exec (.setkey k) s = .next { s with lasterr := 4, sticky := s.sticky ||| 0b01000 } :=
  execSetkey_eq_next.mpr (.inl ⟨hs, rfl⟩)

theorem exec_sched_of_streamActive (n : Byte) {s : State} (hs : StreamActive s) :
    exec (.sched n) s = .next { s with lasterr := 4, sticky := s.sticky ||| 0b01000 } :=
  execSched_eq_next.mpr (.inl ⟨hs, rfl⟩)

/-- Settles O53: the key registers are written only when idle, and the sequence check of SETKEY and SCHED is their first. -/
theorem keysAreLockedDuringStream : Obligations.KeysAreLockedDuringStream := by
  unfold Obligations.KeysAreLockedDuringStream
  refine ⟨fun _ _ _ hs h => exec_sameKeys_of_streamActive h hs, fun k n s hs => ⟨?setkey, ?sched⟩⟩
  case setkey => exact ⟨_, exec_setkey_of_streamActive k hs, rfl⟩
  case sched => exact ⟨_, exec_sched_of_streamActive n hs, rfl⟩

end Sys2Proof.Proofs.KeyLock
end

section
/-! SUPPORT. The encoding of the commands (30_encoding.md R81 to R87): the fields a decoder reads back from an encoded word, the bits
an encoder writes back from a decoded one, and the rows of the opcode table. -/

namespace Sys2Proof.Proofs.Encoding

open Sys2Proof Sys2Proof.Machine

/-! ## Decoding an encoded command -/

/-- The row of opcode 4 (30_encoding.md R86). -/
theorem decode_of_opField_dec {w : Word} (h : opField w = 0x4) : decode w = .dec (w.extractLsb' 0 12) := by
  simp only [decode, h]
  rfl

/-- The row of opcode 6 (30_encoding.md R86). -/
theorem decode_of_opField_feistel {w : Word} (h : opField w = 0x6) :
    decode w = .feistel (w.extractLsb' 0 6) (w.extractLsb' 12 8) := by
  simp only [decode, h]
  rfl

/-- The row of opcode 8 (30_encoding.md R86). -/
theorem decode_of_opField_confuse {w : Word} (h : opField w = 0x8) : decode w = .confuse (w.extractLsb' 0 8) := by
  simp only [decode, h]
  rfl

/-- Every command's word carries its opcode, its key and its low field where the decoder reads them (R82, R86). -/
theorem encode_layout (i : Instr) :
    opField (encode i) = i.opcode ∧ (encode i).extractLsb' 12 8 = i.rkeyBits ∧ (encode i).extractLsb' 0 12 = i.lowBits := by
  obtain ⟨hop, -, hkey, hlow⟩ := Laws.EncodingLayout.layout_of_parts i.opcode i.rkeyBits i.lowBits
  exact ⟨hop, hkey, hlow⟩

/-- A field narrower than the low 12 bits is read back from the zeros that complete it. -/
theorem extractLsb'_eq_of_low {n : Nat} (hn : n ≤ 12) {w : Word} {x : BitVec n} (h : w.extractLsb' 0 12 = x.setWidth 12) :
    w.extractLsb' 0 n = x := by
  have low := congrArg (BitVec.setWidth n) h
  rw [BitVec.setWidth_setWidth_of_le _ hn, BitVec.setWidth_eq] at low
  rw [← low]
  apply BitVec.eq_of_getLsbD_eq
  intro j hj
  simp [hj, show j < 12 by omega]

/-- OP of the encoded word selects the command's own row, which reads back the key and the low field. -/
theorem decode_encode (i : Instr) : decode (encode i) = i := by
  obtain ⟨hop, hkey, hlow⟩ := encode_layout i
  cases i
  case setkey => rw [KeySchedule.decode_of_opField_setkey hop, hlow]; rfl
  case sched => rw [KeySchedule.decode_of_opField_sched hop, extractLsb'_eq_of_low (by omega) hlow]
  case enc => rw [Cipher.decode_of_opField_enc hop, hlow]; rfl
  case dec => rw [decode_of_opField_dec hop, hlow]; rfl
  case round => rw [Cipher.decode_of_opField_round hop, hlow, hkey]; rfl
  case feistel => rw [decode_of_opField_feistel hop, extractLsb'_eq_of_low (by omega) hlow, hkey]; rfl
  case expand => rw [Expand.decode_of_opField_expand hop, extractLsb'_eq_of_low (by omega) hlow]
  case confuse => rw [decode_of_opField_confuse hop, extractLsb'_eq_of_low (by omega) hlow]
  case senc => rw [Framer.decode_of_opField_senc hop, extractLsb'_eq_of_low (by omega) hlow]
  case sbyte => rw [Framer.decode_of_opField_sbyte hop, extractLsb'_eq_of_low (by omega) hlow]
  -- the other commands are their opcode
  all_goals exact Control.decode_of_opField_of_no_field hop rfl

/-- Settles O1. -/
theorem decodeOfEncodeIsIdentity : Obligations.DecodeOfEncodeIsIdentity := by
  unfold Obligations.DecodeOfEncodeIsIdentity
  exact decode_encode

/-! ## Encoding a decoded word -/

/-- A field put back where it was read from is the word with every bit outside the field cleared. -/
theorem extractLsb'_setWidth_shiftLeft (w m : Word) (start len : Nat)
    (hm : m = (BitVec.allOnes len).setWidth 32 <<< start) : (w.extractLsb' start len).setWidth 32 <<< start = w &&& m := by
  apply BitVec.eq_of_getLsbD_eq
  intro j hj
  by_cases hs : j < start
  · simp [hm, hs]
  · have hadd : start + (j - start) = j := by omega
    simp [hm, hs, hj, hadd, Bool.and_comm]

/-- The low field likewise, at bit 0. -/
theorem extractLsb'_zero_setWidth (w m : Word) (len : Nat) (hm : m = (BitVec.allOnes len).setWidth 32) :
    (w.extractLsb' 0 len).setWidth 32 = w &&& m := by
  simpa using extractLsb'_setWidth_shiftLeft w m 0 len (by simpa using hm)

/-- The row of a decoded command is OP's (R86). -/
theorem opcode_decode (w : Word) : (decode w).opcode = opField w := by
  apply BitVec.eq_of_toNat_eq
  have hlt := (opField w).isLt
  unfold decode
  generalize (opField w).toNat = op at hlt ⊢
  split
  -- the default arm is OP = 0xF, the one value the others leave
  case h_16 =>
    show 15 = op
    grind
  all_goals rfl

/-- The RKEY of a decoded command is written back on the key bits its row reads. -/
theorem rkeyBits_decode (w : Word) :
    (decode w).rkeyBits.setWidth 32 <<< 12 = w &&& (usedBits (opField w) &&& 0x000FF000) := by
  rw [← opcode_decode]
  unfold decode
  split
  case h_6 | h_7 => exact extractLsb'_setWidth_shiftLeft w _ 12 8 (by simp only [Instr.opcode]; decide)
  -- every other row has no RKEY and reads no key bit
  all_goals
    symm
    rw [Instr.rkeyBits, Instr.opcode]
    exact BitVec.and_zero

/-- The low field of a decoded command is written back on the low bits its row reads. -/
theorem lowBits_decode (w : Word) :
    (decode w).lowBits.setWidth 32 = w &&& (usedBits (opField w) &&& 0x00000FFF) := by
  rw [← opcode_decode]
  unfold decode
  split
  case h_2 | h_4 | h_5 | h_6 => exact extractLsb'_zero_setWidth w _ 12 (by simp only [Instr.opcode]; decide)
  case h_3 | h_9 | h_10 | h_12 =>
    rw [Instr.lowBits, BitVec.setWidth_setWidth (by omega)]
    exact extractLsb'_zero_setWidth w _ 8 (by simp only [Instr.opcode]; decide)
  case h_7 | h_8 =>
    rw [Instr.lowBits, BitVec.setWidth_setWidth (by omega)]
    exact extractLsb'_zero_setWidth w _ 6 (by simp only [Instr.opcode]; decide)
  -- every other row has no low field and reads no low bit
  all_goals
    symm
    rw [Instr.lowBits, Instr.opcode]
    exact BitVec.and_zero

/-- OP put back at bits [31:28] is what is left of the word under a row's mask (R87). -/
theorem opField_shiftLeft (w : Word) : (opField w).setWidth 32 <<< 28 = w &&& 0xF0000000 :=
  extractLsb'_setWidth_shiftLeft w _ 28 4 (by decide)

/-- The used bits of a row are OP, its key bits and its low bits (R83). -/
theorem usedBits_eq_or (op : BitVec 4) :
    usedBits op = 0xF0000000 ||| (usedBits op &&& 0x000FF000) ||| (usedBits op &&& 0x00000FFF) := by
  revert op
  decide

/-- Settles O2: each of the three parts of the encoded word is the decoded word under the part's own bits of the used ones. -/
theorem encodeOfDecodeClearsIgnoredBits : Obligations.EncodeOfDecodeClearsIgnoredBits := by
  unfold Obligations.EncodeOfDecodeClearsIgnoredBits
  intro w
  rw [encode, opcode_decode, opField_shiftLeft, rkeyBits_decode, lowBits_decode, ← BitVec.and_or_distrib_left,
    ← BitVec.and_or_distrib_left, ← usedBits_eq_or]

/-! ## The opcode table -/

/-- The row of an opcode. -/
def rowOf (op : BitVec 4) : OpcodeRow := opcodeTable[op.toNat]'op.isLt

theorem mnemonic_eq_rowOf_opcode (i : Instr) : i.mnemonic = (rowOf i.opcode).mnemonic := by
  cases i <;> rfl

/-- Every row's mask is OP's bits, and its value an OP (R87). -/
theorem matchesWord_of_mem_opcodeTable {r : OpcodeRow} (hr : r ∈ opcodeTable) (w : Word) :
    r.matchesWord w = ((opField w).setWidth 32 <<< 28 == r.matchBits) := by
  have hmask : r.mask = 0xF0000000 := by
    revert r
    decide
  rw [OpcodeRow.matchesWord, hmask, opField_shiftLeft]

/-- No two rows have one OP (R86). -/
theorem opcodeTable_filter_op (op : BitVec 4) :
    opcodeTable.filter (fun r => op.setWidth 32 <<< 28 == r.matchBits) = [rowOf op] := by
  revert op
  decide

/-- The one row that a word matches is OP's. -/
theorem opcodeTable_filter_matchesWord (w : Word) : opcodeTable.filter (fun r => r.matchesWord w) = [rowOf (opField w)] := by
  rw [← opcodeTable_filter_op]
  exact List.filter_congr fun r hr => matchesWord_of_mem_opcodeTable hr w

/-- Settles O4: the row a word matches is OP's, which is the decoded command's; masks and values are the table's. -/
theorem everyWordMatchesExactlyOneRow : Obligations.EveryWordMatchesExactlyOneRow := by
  unfold Obligations.EveryWordMatchesExactlyOneRow
  refine ⟨fun w => ⟨rowOf (opField w), opcodeTable_filter_matchesWord w, ?_⟩, fun op => ?_⟩
  · rw [mnemonic_eq_rowOf_opcode, opcode_decode]
  · refine ⟨rowOf (BitVec.ofFin op), ?_⟩
    revert op
    decide

/-- Settles O5: each word's OP names its row, and its fields are the operands. -/
theorem specExampleWordsDecode : Obligations.SpecExampleWordsDecode := by
  unfold Obligations.SpecExampleWordsDecode
  decide

end Sys2Proof.Proofs.Encoding
end

section
/-! SUPPORT. The table of writers (10_state.md R40), register by register over the one case analysis of what a command can do, and
what a command appends to OUT (20_memory.md R56). -/

namespace Sys2Proof.Proofs.Writers

open Sys2Proof Sys2Proof.Machine Sys2Proof.Safety

variable {i : Instr} {s t : State}

/-! ## The writers of each register -/

theorem setkey_of_key_ne (h : exec i s = .next t) : t.key ≠ s.key → t.lasterr = 0 ∧ ∃ k, i = .setkey k := by
  revert i s t
  apply exec_cases
  case keyLoaded => exact fun _ k _ _ _ => ⟨rfl, k, rfl⟩
  all_goals intros; exact absurd rfl ‹_›

theorem setkey_or_sched_of_kv_ne (h : exec i s = .next t) : t.kv ≠ s.kv →
    (t.lasterr = 0 ∧ t.kv = false ∧ ∃ k, i = .setkey k) ∨
    (∃ n, i = .sched n) ∧ (t.lasterr = 0 ∧ t.kv = true ∨ t.lasterr = 1 ∧ t.kv = false) := by
  revert i s t
  apply exec_cases
  case keyLoaded => exact fun _ k _ _ _ => .inl ⟨rfl, rfl, k, rfl⟩
  case scheduled => exact fun _ n _ _ _ => .inr ⟨⟨n, rfl⟩, .inl ⟨rfl, rfl⟩⟩
  case countRefused => exact fun _ n _ _ _ => .inr ⟨⟨n, rfl⟩, .inr ⟨rfl, rfl⟩⟩
  all_goals intros; exact absurd rfl ‹_›

theorem sched_of_nr_or_rk_ne (h : exec i s = .next t) :
    t.nr ≠ s.nr ∨ t.rk ≠ s.rk → t.lasterr = 0 ∧ ∃ n, i = .sched n := by
  revert i s t
  apply exec_cases
  case scheduled => exact fun _ n _ _ _ => ⟨rfl, n, rfl⟩
  all_goals intros; exact absurd ‹_› (by simp)

theorem writes_result_of_result_ne (h : exec i s = .next t) : t.result ≠ s.result → t.lasterr = 0 ∧
    ((∃ h, i = .expand h) ∨ (∃ x, i = .confuse x) ∨ (∃ h k, i = .feistel h k) ∨ (∃ b k, i = .round b k) ∨
      (∃ b, i = .enc b) ∨ ∃ b, i = .dec b) := by
  revert i s t
  apply exec_cases
  case expand | confuse | feistel | round | enc | dec => intros; exact ⟨rfl, by simp⟩
  all_goals intros; exact absurd rfl ‹_›

/-- A command leaves STICKY as it was unless it raises an error, or is CLRERR. -/
theorem error_or_clrerr_of_sticky_ne (h : exec i s = .next t) : t.sticky ≠ s.sticky → t.lasterr ≠ 0 ∨ i = .clrerr := by
  intro hne
  obtain ⟨hc, -, -⟩ | ⟨e, hl, hs⟩ := Status.exec_outcome h
  · exact .inr hc
  · cases e with
    | none => exact absurd hs hne
    | some e => exact .inl (by rw [hl]; cases e <;> decide)

theorem framer_command_of_stream_ne (h : exec i s = .next t) : t.smode ≠ s.smode ∨ t.bcnt ≠ s.bcnt ∨ t.hv ≠ s.hv →
    (t.lasterr = 0 ∨ t.lasterr = 2) ∧ ((∃ p, i = .senc p) ∨ i = .sdec ∨ (∃ d, i = .sbyte d) ∨ i = .send) := by
  revert i s t
  apply exec_cases
  case formatError =>
    intro i s hc _ _
    obtain ⟨d, rfl, -⟩ | ⟨rfl, -⟩ | ⟨rfl, -⟩ | ⟨rfl, -⟩ := Errors.formatCause_iff.mp hc
    all_goals exact ⟨.inr rfl, by simp⟩
  case encOpened | decOpened | headerTaken | buffered | chunkEncrypted | chunkDecrypted | encEnded | encFlushed
      | decFlushed => intros; exact ⟨.inl rfl, by simp⟩
  all_goals intros; exact absurd ‹_› (by simp)

theorem pad_writer_of_pad_ne (h : exec i s = .next t) : t.pad ≠ s.pad → t.lasterr = 0 ∧
    ((∃ p, i = .senc p) ∨ i = .sdec ∨ (∃ d, i = .sbyte d) ∧ s.smode = .decHdr) := by
  revert i s t
  apply exec_cases
  case encOpened => exact fun _ p _ _ _ _ => ⟨rfl, .inl ⟨p, rfl⟩⟩
  case decOpened => exact fun _ _ _ _ => ⟨rfl, .inr (.inl rfl)⟩
  case headerTaken => exact fun _ d hm _ _ => ⟨rfl, .inr (.inr ⟨⟨d, rfl⟩, hm⟩)⟩
  all_goals intros; exact absurd rfl ‹_›

theorem buf_writer_of_buf_ne (h : exec i s = .next t) : t.buf ≠ s.buf →
    (∃ d, i = .sbyte d) ∧ (s.smode = .enc ∨ s.smode = .dec) ∨ i = .send ∧ s.smode = .enc := by
  revert i s t
  apply exec_cases
  case buffered => exact fun _ d hm _ _ => .inl ⟨⟨d, rfl⟩, hm⟩
  case encFlushed => exact fun _ _ _ hm _ _ _ => .inr ⟨rfl, hm⟩
  all_goals intros; exact absurd rfl ‹_›

theorem sbyte_of_hold_ne (h : exec i s = .next t) : t.hold ≠ s.hold →
    (∃ d, i = .sbyte d) ∧ s.smode = .dec ∧ 2 ≤ s.bcnt.toNat := by
  revert i s t
  apply exec_cases
  case chunkDecrypted => exact fun _ d _ hm hb _ => ⟨⟨d, rfl⟩, hm, hb⟩
  all_goals intros; exact absurd rfl ‹_›

/-- No command reads or writes the host's side (log 1). -/
theorem exec_sameHost (h : exec i s = .next t) : SameHost s t := by
  revert i s t
  apply exec_cases
  all_goals intros; exact ⟨rfl, rfl, rfl, rfl⟩

/-! ## Output -/

theorem heldBytes_length_le (s : State) : (heldBytes s).length ≤ 3 := by
  unfold heldBytes
  split <;> simp

/-- A command appends at most three bytes to OUT and counts them; a command that appends any is SENC, SBYTE or SEND. -/
theorem exec_appends (h : exec i s = .next t) :
    ∃ bytes, t.out = s.out ++ bytes ∧ t.ocnt = s.ocnt + BitVec.ofNat 32 bytes.length ∧ bytes.length ≤ 3 ∧
      (bytes ≠ [] → (∃ p, i = .senc p) ∨ (∃ d, i = .sbyte d) ∨ i = .send) := by
  revert i s t
  apply exec_cases
  case encOpened => exact fun _ p _ _ _ => ⟨[p], rfl, rfl, by simp, fun _ => .inl ⟨p, rfl⟩⟩
  case chunkEncrypted => exact fun _ d c _ _ => ⟨chunkBytes c, rfl, rfl, by simp, fun _ => .inr (.inl ⟨d, rfl⟩)⟩
  case chunkDecrypted =>
    exact fun s d _ _ _ => ⟨heldBytes s, rfl, rfl, heldBytes_length_le s, fun _ => .inr (.inl ⟨d, rfl⟩)⟩
  case encFlushed => exact fun _ _ c _ _ _ => ⟨chunkBytes c, rfl, rfl, by simp, fun _ => .inr (.inr rfl)⟩
  case decFlushed =>
    exact fun s _ _ => ⟨_, rfl, rfl, (List.length_take_le _ _).trans (by omega), fun _ => .inr (.inr rfl)⟩
  -- every other outcome leaves OUT and OCNT
  all_goals intros; exact ⟨[], by simp, by simp, by simp, fun h => absurd rfl h⟩

/-- OUT and OCNT change only together, by the bytes appended. -/
theorem emitter_of_output_ne (h : exec i s = .next t) : t.out ≠ s.out ∨ t.ocnt ≠ s.ocnt →
    (∃ p, i = .senc p) ∨ (∃ d, i = .sbyte d) ∨ i = .send := by
  obtain ⟨bytes, hout, hocnt, -, hi⟩ := exec_appends h
  intro hne
  refine hi ?_
  rintro rfl
  simp [hout, hocnt] at hne

/-- Settles O54: the bytes appended, outcome by outcome. -/
theorem commandsOnlyAppendToOut : Obligations.CommandsOnlyAppendToOut := by
  unfold Obligations.CommandsOnlyAppendToOut
  exact fun _ _ _ => exec_appends

/-- A command outside the framer writes none of its registers (70_reset_and_hazards.md R241). -/
theorem exec_sameFramer_of_outsideFramer (h : exec i s = .next t) : OutsideFramer i = true → SameFramer s t := by
  revert i s t
  apply exec_cases
  case formatError =>
    intro i s hc _ hi
    obtain ⟨d, rfl, -⟩ | ⟨rfl, -⟩ | ⟨rfl, -⟩ | ⟨rfl, -⟩ := Errors.formatCause_iff.mp hc
    all_goals cases hi
  case encOpened | decOpened | headerTaken | buffered | chunkEncrypted | chunkDecrypted | encEnded | encFlushed
      | decFlushed => intros; exact absurd ‹_› (by simp [OutsideFramer])
  all_goals intros; exact ⟨rfl, rfl, rfl, rfl, rfl, rfl⟩

/-- Settles O52: register by register, the outcomes that change it. -/
theorem onlyListedWritersWriteARegister : Obligations.OnlyListedWritersWriteARegister := by
  unfold Obligations.OnlyListedWritersWriteARegister
  exact ⟨fun _ _ _ h => ⟨setkey_of_key_ne h, setkey_or_sched_of_kv_ne h, sched_of_nr_or_rk_ne h,
      writes_result_of_result_ne h, error_or_clrerr_of_sticky_ne h, framer_command_of_stream_ne h, pad_writer_of_pad_ne h,
      buf_writer_of_buf_ne h, sbyte_of_hold_ne h, emitter_of_output_ne h, exec_sameHost h⟩,
    fun _ _ _ hi h => exec_sameFramer_of_outsideFramer h hi⟩

end Sys2Proof.Proofs.Writers
end

section
/-! SUPPORT. The step and the host's interactions (20_memory.md R51 to R57): what a command's effect does not depend on, that every
command and every step completes (60_exceptions.md R208), and runs of steps. -/

namespace Sys2Proof.Proofs.Steps

open Sys2Proof Sys2Proof.Machine

/-! ## What a command's effect does not depend on -/

/-- The state with other values of the registers that no command's effect depends on: LASTERR, STICKY and the host's script. -/
def overlay (c : BitVec 3) (k : BitVec 5) (rest : List HostMove) (s : State) : State :=
  { s with lasterr := c, sticky := k, script := rest }

/-- An answer that is one next state whatever the overlay: LASTERR is replaced, STICKY becomes a function of itself, and the
script is kept. -/
def Uniform (answer : State → Answer) (s : State) : Prop :=
  ∃ (t : State) (sticky : BitVec 5 → BitVec 5), ∀ c k rest,
    answer (overlay c k rest s) = .next { t with sticky := sticky k, script := rest }

theorem uniform_succeed {f : State → State} {s : State} (hf : ∀ c k rest, f (overlay c k rest s) = overlay c k rest (f s)) :
    Uniform (fun u => succeed (f u)) s :=
  ⟨{ f s with lasterr := 0 }, id, fun c k rest => by simp only [hf]; rfl⟩

theorem uniform_raise {f : State → State} {s : State} (e : ErrorKind)
    (hf : ∀ c k rest, f (overlay c k rest s) = overlay c k rest (f s)) : Uniform (fun u => raise e (f u)) s :=
  ⟨{ f s with lasterr := errorCode e }, fun k => k ||| stickyBit e, fun c k rest => by simp only [hf]; rfl⟩

/-- A check that does not look at the overlay decides between uniform answers. -/
theorem Uniform.ite {p : State → Prop} [DecidablePred p] {a b : State → Answer} {s : State}
    (hp : ∀ c k rest, p (overlay c k rest s) ↔ p s) (ha : Uniform a s) (hb : Uniform b s) :
    Uniform (fun u => if p u then a u else b u) s := by
  by_cases h : p s
  · obtain ⟨t, sticky, ht⟩ := ha
    exact ⟨t, sticky, fun c k rest => (if_pos ((hp c k rest).mpr h)).trans (ht c k rest)⟩
  · obtain ⟨t, sticky, ht⟩ := hb
    exact ⟨t, sticky, fun c k rest => (if_neg (mt (hp c k rest).mp h)).trans (ht c k rest)⟩

theorem uniform_abortWithFormatError (s : State) : Uniform abortWithFormatError s :=
  uniform_raise (f := endStream) _ fun _ _ _ => rfl

theorem uniform_sequenceError (s : State) : Uniform (raise .sequenceError) s :=
  uniform_raise (f := id) _ fun _ _ _ => rfl

/-- SBYTE as a chain of checks (43_framer.md R167). -/
theorem execSbyte_eq_ite (d : Byte) :
    execSbyte d = fun s =>
      if s.smode = .idle then raise .sequenceError s
      else if s.smode = .decHdr then
        if padTooLarge d then abortWithFormatError s else succeed { s with pad := padOfByte d, smode := .dec }
      else if s.bcnt.toNat < 2 then succeed (pushByte d s)
      else if s.smode = .enc then succeed (completeEnc d s)
      else succeed (completeDec d s) := by
  funext s
  cases hm : s.smode
  case idle | decHdr => simp [execSbyte, takeHeader, hm]
  case enc | dec => simp [execSbyte, apply_ite succeed, hm]

/-- SEND as a chain of checks (43_framer.md R168). -/
theorem execSend_eq_ite :
    execSend = fun s =>
      if s.smode = .idle then raise .sequenceError s
      else if s.smode = .decHdr then abortWithFormatError s
      else if s.smode = .enc then
        if s.pad.toNat ≠ requiredPad s then abortWithFormatError s else succeed (endStream (flushEnc s))
      else if s.bcnt.toNat ≠ 0 then abortWithFormatError s
      else succeed (endStream (flushDec s)) := by
  funext s
  cases hm : s.smode <;> simp [execSend, hm]

theorem completeEnc_overlay (d : Byte) (s : State) (c k rest) :
    completeEnc d (overlay c k rest s) = overlay c k rest (completeEnc d s) := by
  simp only [completeEnc_eq]
  rfl

theorem completeDec_overlay (d : Byte) (s : State) (c k rest) :
    completeDec d (overlay c k rest s) = overlay c k rest (completeDec d s) := by
  simp only [completeDec_eq]
  rfl

theorem flushEnc_overlay (s : State) (c k rest) : flushEnc (overlay c k rest s) = overlay c k rest (flushEnc s) := by
  by_cases hb : s.bcnt.toNat = 0
  · rw [flushEnc_whole hb, flushEnc_whole (s := overlay c k rest s) hb]
  · rw [flushEnc_partial hb, flushEnc_partial (s := overlay c k rest s) hb]
    rfl

theorem flushDec_overlay (s : State) (c k rest) : flushDec (overlay c k rest s) = overlay c k rest (flushDec s) := by
  simp only [flushDec_eq]
  rfl

/-- Every command is a chain of checks that do not look at the overlay, ended by a success or a raise. -/
theorem uniform_exec (i : Instr) (s : State) : Uniform (exec i) s := by
  cases i
  case nop => exact uniform_succeed (f := id) fun _ _ _ => rfl
  case clrerr => exact ⟨{ s with lasterr := 0 }, fun _ => 0, fun _ _ _ => rfl⟩
  case reservedE | reservedF => exact uniform_raise (f := id) _ fun _ _ _ => rfl
  case expand | confuse | feistel | round => exact uniform_succeed (f := setResult _) fun _ _ _ => rfl
  case enc b | dec b =>
    exact .ite (fun _ _ _ => .rfl) (uniform_sequenceError s) (uniform_succeed fun _ _ _ => rfl)
  case setkey k =>
    exact .ite (fun _ _ _ => .rfl) (uniform_sequenceError s)
      (.ite (fun _ _ _ => .rfl) (uniform_raise (f := id) _ fun _ _ _ => rfl) (uniform_succeed fun _ _ _ => rfl))
  case sched n =>
    exact .ite (fun _ _ _ => .rfl) (uniform_sequenceError s)
      (.ite (fun _ _ _ => .rfl) (uniform_raise _ fun _ _ _ => rfl) (uniform_succeed fun _ _ _ => rfl))
  case senc p =>
    exact .ite (fun _ _ _ => .rfl) (uniform_sequenceError s)
      (.ite (fun _ _ _ => .rfl) (uniform_raise (f := id) _ fun _ _ _ => rfl) (uniform_succeed fun _ _ _ => rfl))
  case sdec =>
    exact .ite (fun _ _ _ => .rfl) (uniform_sequenceError s) (uniform_succeed fun _ _ _ => rfl)
  case sbyte d =>
    show Uniform (execSbyte d) s
    rw [execSbyte_eq_ite]
    exact .ite (fun _ _ _ => .rfl) (uniform_sequenceError s)
      (.ite (fun _ _ _ => .rfl)
        (.ite (fun _ _ _ => .rfl) (uniform_abortWithFormatError s) (uniform_succeed fun _ _ _ => rfl))
        (.ite (fun _ _ _ => .rfl) (uniform_succeed fun _ _ _ => rfl)
          (.ite (fun _ _ _ => .rfl) (uniform_succeed (completeEnc_overlay d s)) (uniform_succeed (completeDec_overlay d s)))))
  case send =>
    show Uniform execSend s
    rw [execSend_eq_ite]
    exact .ite (fun _ _ _ => .rfl) (uniform_sequenceError s)
      (.ite (fun _ _ _ => .rfl) (uniform_abortWithFormatError s)
        (.ite (fun _ _ _ => .rfl)
          (.ite (fun _ _ _ => .rfl) (uniform_abortWithFormatError s)
            (uniform_succeed fun c k rest => congrArg endStream (flushEnc_overlay s c k rest)))
          (.ite (fun _ _ _ => .rfl) (uniform_abortWithFormatError s)
            (uniform_succeed fun c k rest => congrArg endStream (flushDec_overlay s c k rest)))))

/-- Every command completes (60_exceptions.md R208). -/
theorem exec_completes (i : Instr) (s : State) : ∃ t, exec i s = .next t := by
  obtain ⟨t, sticky, ht⟩ := uniform_exec i s
  exact ⟨_, ht s.lasterr s.sticky s.script⟩

/-- A command does the same whatever the host does after it (log 1). -/
theorem exec_withScript {i : Instr} {s t : State} (h : exec i s = .next t) (rest : List HostMove) :
    exec i { s with script := rest } = .next { t with script := rest } := by
  obtain ⟨u, sticky, hu⟩ := uniform_exec i s
  obtain rfl := Host.Outcome.next.inj (h.symm.trans (hu s.lasterr s.sticky s.script))
  exact hu s.lasterr s.sticky rest

/-- A command does the same to every register but STICKY whatever errors are recorded (60_exceptions.md R208). -/
theorem exec_withErrors (i : Instr) (s : State) (c : BitVec 3) (k : BitVec 5) :
    ∃ t u, exec i s = .next t ∧ exec i { s with lasterr := c, sticky := k } = .next u ∧ u = { t with sticky := u.sticky } := by
  obtain ⟨t, sticky, ht⟩ := uniform_exec i s
  exact ⟨_, _, ht s.lasterr s.sticky s.script, ht c k s.script, rfl⟩

/-! ## One step -/

section
variable {s : State} {rest : List HostMove}

theorem step_command {w : Word} (h : s.script = .command w :: rest) : step s = exec (decode w) { s with script := rest } := by
  simp only [step, h]

theorem step_readReg {a : RegAddr} (h : s.script = .readReg a :: rest) :
    step s = .next { s with script := rest, reads := s.reads ++ [(a, readRegister a s)] } :=
  step_eq_next.mpr (.inr (.inr (.inl ⟨a, rest, h, rfl⟩)))

theorem step_outReady (h : s.script = .outReady :: rest) : step s = .next (hostTake { s with script := rest }) :=
  step_eq_next.mpr (.inr (.inr (.inr (.inl ⟨rest, h, rfl⟩))))

theorem step_reset (h : s.script = .reset :: rest) :
    step s = .next { State.reset with script := rest, reads := s.reads, got := s.got } :=
  step_eq_next.mpr (.inr (.inr (.inr (.inr ⟨rest, h, rfl⟩))))

theorem step_idle (h : s.script = []) : step s = .next s :=
  step_eq_next.mpr (.inl ⟨h, rfl⟩)

theorem hostTake_offered {b : Byte} (h : s.out[s.taken]? = some b) :
    hostTake s = { s with taken := s.taken + 1, got := s.got ++ [b] } := by
  simp only [hostTake, offeredByte, h]

theorem hostTake_none (h : s.out[s.taken]? = none) : hostTake s = s := by
  simp only [hostTake, offeredByte, h]

@[simp] theorem hostTake_script (s : State) : (hostTake s).script = s.script := by
  obtain ⟨b, -, h⟩ | ⟨-, h⟩ := hostTake_cases s <;> rw [h]

/-- A step with an interaction pending performs it: it answers a next state, with that interaction done. -/
theorem step_performs {m : HostMove} (h : s.script = m :: rest) : ∃ t, step s = .next t ∧ t.script = rest := by
  cases m with
  | command w =>
    obtain ⟨t, ht⟩ := exec_completes (decode w) { s with script := rest }
    obtain ⟨-, hscript, -, -⟩ := Writers.exec_sameHost ht
    exact ⟨t, (step_command h).trans ht, hscript⟩
  | readReg a => exact ⟨_, step_readReg h, rfl⟩
  | outReady => exact ⟨_, step_outReady h, hostTake_script _⟩
  | reset => exact ⟨_, step_reset h, rfl⟩

theorem step_completes (s : State) : ∃ t, step s = .next t := by
  cases h : s.script with
  | nil => exact ⟨s, step_idle h⟩
  | cons m rest =>
    obtain ⟨t, ht, -⟩ := step_performs h
    exact ⟨t, ht⟩

end

/-- Settles O6. -/
theorem stepRunsDecodedCommand : Obligations.StepRunsDecodedCommand := by
  unfold Obligations.StepRunsDecodedCommand
  exact fun _ _ _ => step_command

/-- Settles O9: the two cases of taking a byte. -/
theorem outputBytesAreTakenInOrder : Obligations.OutputBytesAreTakenInOrder := by
  unfold Obligations.OutputBytesAreTakenInOrder
  refine ⟨fun s b rest hs hb => ?_, fun s rest hs hb => ?_⟩
  · rw [step_outReady hs, hostTake_offered (s := { s with script := rest }) hb]
  · rw [step_outReady hs, hostTake_none (s := { s with script := rest }) hb]

/-- Settles O11. -/
theorem idleCoreHoldsItsState : Obligations.IdleCoreHoldsItsState := by
  unfold Obligations.IdleCoreHoldsItsState
  exact fun _ => step_idle

/-! ## Runs of steps -/

/-- A run's first step hands its state to the steps after it. -/
theorem run_succ_of_step {s t : State} (h : step s = .next t) (n : Nat) :
    Host.Core.run core (n + 1) s = Host.Core.run core n t := by
  have hcore : core.step s = .next t := h
  simp only [Host.Core.run, hcore]

/-- Settles O8: a read changes the host's record alone, which no read looks at. -/
theorem registerReadHasNoSideEffect : Obligations.RegisterReadHasNoSideEffect := by
  unfold Obligations.RegisterReadHasNoSideEffect
  refine ⟨fun _ _ _ => step_readReg, fun s a rest hs => ?_⟩
  rw [run_succ_of_step (step_readReg hs), run_succ_of_step (step_readReg rfl), List.append_assoc]
  rfl

/-- Settles O10: a reset step keeps the host's record alone, which no command writes. -/
theorem resetReplacesCoreState : Obligations.ResetReplacesCoreState := by
  unfold Obligations.ResetReplacesCoreState
  refine ⟨fun _ _ => step_reset, fun s w rest hs => ?_, by decide⟩
  obtain ⟨t, ht⟩ := exec_completes (decode w) { s with script := .reset :: rest }
  obtain ⟨-, hscript, hreads, hgot⟩ := Writers.exec_sameHost ht
  rw [run_succ_of_step ((step_command hs).trans ht), run_succ_of_step (step_reset hscript), step_reset rfl, hreads, hgot]
  rfl

/-- Settles O7, by induction on the words: each step is the next command, and no command looks at the words after it. -/
theorem writtenWordsRunInOrder : Obligations.WrittenWordsRunInOrder := by
  unfold Obligations.WrittenWordsRunInOrder
  intro ws
  induction ws with
  | nil => exact fun s rest hs => by rw [← show s.script = rest from hs]; rfl
  | cons w ws ih =>
    intro s rest hs
    obtain ⟨t, ht⟩ := exec_completes (decode w) { s with script := writeWords ws ++ rest }
    obtain ⟨-, hscript, -, -⟩ := Writers.exec_sameHost ht
    rw [List.length_cons, run_succ_of_step ((step_command hs).trans ht), ih t rest hscript, List.map_cons,
      Framer.execAll_cons_of_next (exec_withScript ht rest)]

/-- As many steps as the host has interactions perform them all. -/
theorem run_performs_all (s : State) : ∃ t, Host.Core.run core s.script.length s = .next t ∧ t.script = [] := by
  induction h : s.script generalizing s with
  | nil => exact ⟨s, rfl, h⟩
  | cons m rest ih =>
    obtain ⟨t, ht, hscript⟩ := step_performs h
    rw [List.length_cons, run_succ_of_step ht]
    exact ih t hscript

/-- Settles O12: commands and steps complete, and no command looks at the errors recorded before it. -/
theorem noErrorStopsTheCore : Obligations.NoErrorStopsTheCore := by
  unfold Obligations.NoErrorStopsTheCore
  refine ⟨step_completes, exec_completes, fun s w rest hs c k => ?afterErrors, exec_withErrors, fun moves => ?run⟩
  case afterErrors => exact step_command (s := { s with lasterr := c, sticky := k }) hs
  case run =>
    obtain ⟨t, ht, hscript⟩ := run_performs_all (startRun moves)
    have hrun : Host.Core.run core moves.length (startRun moves) = .next t := ht
    exact ⟨t, hrun, hscript, by simp only [observeRun, hrun]; rfl⟩

end Sys2Proof.Proofs.Steps
end

section
/-! SUPPORT. What every step keeps: the schedule of the current KEY (10_state.md R27) and the invariants of the state rules. -/

namespace Sys2Proof.Proofs.Invariant

open Sys2Proof Sys2Proof.Machine Sys2Proof.Safety

variable {i : Instr} {s t : State}

/-! ## The schedule -/

/-- The invariant of R27 speaks of the key registers alone. -/
theorem ScheduleMatchesKey.of_sameKeys (hs : ScheduleMatchesKey s) (h : SameKeys s t) : ScheduleMatchesKey t := by
  obtain ⟨hkey, hnr, hkv, hrk⟩ := h
  intro hv j
  rw [hkey, hnr, hrk]
  exact hs (hkv.symm.trans hv) j

theorem scheduleMatchesKey_of_not_kv (h : s.kv = false) : ScheduleMatchesKey s :=
  fun hv => absurd (h.symm.trans hv) Bool.false_ne_true

/-- The round count of an accepted SCHED stands in NR as it is (41_key_schedule.md R123). -/
theorem toNat_setWidth_of_le_nine {n : Byte} (hn : n.toNat ≤ 9) : (n.setWidth 4).toNat = n.toNat := by
  rw [BitVec.toNat_setWidth]
  omega

/-- SETKEY and a refused round count clear KV, an accepted SCHED writes the schedule, and no other outcome writes a key
register. -/
theorem exec_keeps_scheduleMatchesKey (h : exec i s = .next t) : ScheduleMatchesKey s → ScheduleMatchesKey t := by
  revert i s t
  apply exec_cases
  case keyLoaded | countRefused => intros; exact scheduleMatchesKey_of_not_kv rfl
  case scheduled =>
    intro s n _ hn _ _ j
    rw [toNat_setWidth_of_le_nine hn]
    exact schedule_getElem s.key n.toNat j j.isLt
  all_goals intros; exact ScheduleMatchesKey.of_sameKeys ‹_› ⟨rfl, rfl, rfl, rfl⟩

/-- Taking an output byte changes no register but the port's position and the host's record (20_memory.md R55). -/
theorem hostTake_sameKeys (s : State) : SameKeys s (hostTake s) := by
  obtain ⟨b, -, h⟩ | ⟨-, h⟩ := hostTake_cases s <;> rw [h] <;> exact ⟨rfl, rfl, rfl, rfl⟩

/-- Settles O27: every command keeps the invariant, reset clears KV, and the host's other interactions write no key
register. -/
theorem scheduleMatchesKeyIsKept : Obligations.ScheduleMatchesKeyIsKept := by
  unfold Obligations.ScheduleMatchesKeyIsKept
  intro s t hs h
  rcases step_eq_next.mp h with ⟨-, rfl⟩ | ⟨w, rest, -, hx⟩ | ⟨a, rest, -, rfl⟩ | ⟨rest, -, rfl⟩ | ⟨rest, -, rfl⟩
  · exact hs
  · exact exec_keeps_scheduleMatchesKey hx hs
  · exact hs
  · exact ScheduleMatchesKey.of_sameKeys (s := { s with script := rest }) hs (hostTake_sameKeys _)
  · exact scheduleMatchesKey_of_not_kv rfl

/-! ## The key registers and the error registers -/

theorem exec_keeps_roundCount (h : exec i s = .next t) : s.nr.toNat ≤ 9 → t.nr.toNat ≤ 9 := by
  revert i s t
  apply exec_cases
  case scheduled => exact fun _ _ _ hn _ => (toNat_setWidth_of_le_nine hn).trans_le hn
  all_goals intros; assumption

theorem outcomeCode_le_five (e : Option ErrorKind) : (outcomeCode e).toNat ≤ 5 := by
  cases e with
  | none => decide
  | some e => cases e <;> decide

/-- LASTERR is the code of one of the five kinds, or 0 (60_exceptions.md R200). -/
theorem exec_lasterr_le_five (h : exec i s = .next t) : t.lasterr.toNat ≤ 5 := by
  rw [Errors.lasterr_eq_outcomeCode_firstError h]
  exact outcomeCode_le_five _

/-- The kind that LASTERR names after a command is the one just raised, whose bit the raise sets (60_exceptions.md R210). -/
theorem exec_records (h : exec i s = .next t) (e : ErrorKind) (he : t.lasterr = errorCode e) :
    t.sticky &&& stickyBit e = stickyBit e := by
  have hfirst := (Errors.lasterr_eq_errorCode_iff h).mp he
  rw [Errors.eq_of_firstError h hfirst]
  apply BitVec.eq_of_getLsbD_eq
  intro j _
  simp only [BitVec.getLsbD_and, BitVec.getLsbD_or]
  cases (stickyBit e).getLsbD j <;> simp

/-! ## The framer's registers -/

/-- A padding length of at most 2 stands in PAD as it is (43_framer.md R165, R167). -/
theorem toNat_setWidth_of_le_two {p : Byte} (hp : p.toNat ≤ 2) : (p.setWidth 2).toNat = p.toNat := by
  rw [BitVec.toNat_setWidth]
  omega

theorem exec_keeps_padding (h : exec i s = .next t) : s.pad.toNat ≤ 2 → t.pad.toNat ≤ 2 := by
  revert i s t
  apply exec_cases
  case encOpened => exact fun _ _ _ _ hp _ => (toNat_setWidth_of_le_two hp).trans_le hp
  case headerTaken => exact fun _ _ _ hd _ => (toNat_setWidth_of_le_two hd).trans_le hd
  case decOpened => intros; exact Nat.zero_le 2
  all_goals intros; assumption

theorem exec_keeps_buffered (h : exec i s = .next t) : s.bcnt.toNat ≤ 2 → t.bcnt.toNat ≤ 2 := by
  revert i s t
  apply exec_cases
  case buffered =>
    intro s d _ hb _
    show (s.bcnt + 1).toNat ≤ 2
    rw [BitVec.toNat_add, show (1 : BitVec 2).toNat = 1 from rfl]
    omega
  case encOpened | decOpened | formatError | chunkEncrypted | chunkDecrypted | encEnded | encFlushed | decFlushed =>
    intros; exact Nat.zero_le 2
  all_goals intros; assumption

theorem exec_keeps_holdOnlyInDec (h : exec i s = .next t) :
    (s.hv = true → s.smode = .dec) → t.hv = true → t.smode = .dec := by
  revert i s t
  apply exec_cases
  case headerTaken => intros; rfl
  case chunkDecrypted => exact fun _ _ _ hm _ _ _ => hm
  case encOpened | decOpened | formatError | encEnded | encFlushed | decFlushed => intros; contradiction
  all_goals intros; tauto

theorem exec_keeps_collectsInStream (h : exec i s = .next t) :
    (s.bcnt.toNat ≠ 0 → s.smode = .enc ∨ s.smode = .dec) → t.bcnt.toNat ≠ 0 → t.smode = .enc ∨ t.smode = .dec := by
  revert i s t
  apply exec_cases
  case headerTaken => intros; exact .inr rfl
  case buffered => exact fun _ _ hm _ _ _ => hm
  case encOpened | decOpened | formatError | chunkEncrypted | chunkDecrypted | encEnded | encFlushed | decFlushed =>
    intros; exact absurd rfl ‹_›
  all_goals intros; tauto

theorem exec_keeps_streamHasKeys (h : exec i s = .next t) :
    (StreamActive s → s.kv = true) → StreamActive t → t.kv = true := by
  revert i s t
  apply exec_cases
  case keyLoaded | countRefused => exact fun _ _ hm _ _ ht => absurd hm ht
  case scheduled => intros; rfl
  case encOpened => exact fun _ _ _ hk _ _ _ => hk
  case decOpened => exact fun _ _ hk _ _ => hk
  case headerTaken => exact fun s d hm _ hs _ => hs (by simp [StreamActive, hm])
  case formatError | encEnded | encFlushed | decFlushed => intros; exact absurd rfl ‹_›
  all_goals intros; tauto

/-! ## The invariants -/

/-- Every command keeps the invariants: OUT is only appended to, so what the host took of it stands. -/
theorem exec_keeps_inv (h : exec i s = .next t) (hs : Inv s) : Inv t := by
  obtain ⟨bytes, hout, hocnt, -, -⟩ := Writers.exec_appends h
  obtain ⟨htaken, -, -, hgot⟩ := Writers.exec_sameHost h
  exact {
    schedule := exec_keeps_scheduleMatchesKey h hs.schedule
    roundCount := exec_keeps_roundCount h hs.roundCount
    outcome := exec_lasterr_le_five h
    padding := exec_keeps_padding h hs.padding
    buffered := exec_keeps_buffered h hs.buffered
    holdOnlyInDec := exec_keeps_holdOnlyInDec h hs.holdOnlyInDec
    collectsInStream := exec_keeps_collectsInStream h hs.collectsInStream
    streamHasKeys := exec_keeps_streamHasKeys h hs.streamHasKeys
    count := by rw [hocnt, hout, hs.count, List.length_append, BitVec.ofNat_add]
    recorded := exec_records h
    takenEmitted := by
      rw [htaken, hout, List.length_append]
      exact hs.takenEmitted.trans (Nat.le_add_right _ _)
    takenInOrder := by
      rw [hgot, htaken, hout, List.take_append_of_le_length hs.takenEmitted]
      exact hs.takenInOrder }

/-- The byte offered is the one after those taken, so the host again holds the first bytes of OUT. -/
theorem hostTake_keeps_inv (hs : Inv s) : Inv (hostTake s) := by
  obtain ⟨b, hb, h⟩ | ⟨-, h⟩ := hostTake_cases s
  · rw [h]
    obtain ⟨before, hgot⟩ := hs.takenInOrder
    exact { hs with
      takenEmitted := (List.getElem?_eq_some_iff.mp hb).1
      takenInOrder := ⟨before, by simp only [hgot, List.take_add_one, hb, Option.toList_some, List.append_assoc]⟩ }
  · rw [h]
    exact hs

/-- The invariants say nothing of the host's script and reads. -/
theorem inv_withHost (hs : Inv s) (rest : List HostMove) (reads : List (RegAddr × Word)) :
    Inv { s with script := rest, reads := reads } :=
  { hs with }

theorem errorCode_ne_zero (e : ErrorKind) : errorCode e ≠ 0 := by
  cases e <;> decide

/-- The reset state has the invariants, whatever the host has done and will do: OUT is empty and nothing of it is taken. -/
theorem inv_reset (rest : List HostMove) (reads : List (RegAddr × Word)) (got : List Byte) :
    Inv { State.reset with script := rest, reads := reads, got := got } where
  schedule := scheduleMatchesKey_of_not_kv rfl
  roundCount := Nat.zero_le 9
  outcome := Nat.zero_le 5
  padding := Nat.zero_le 2
  buffered := Nat.zero_le 2
  holdOnlyInDec := nofun
  collectsInStream h := absurd rfl h
  streamHasKeys h := absurd rfl h
  count := rfl
  recorded e h := absurd h.symm (errorCode_ne_zero e)
  takenEmitted := le_rfl
  takenInOrder := ⟨got, (List.append_nil got).symm⟩

/-- Settles O57: a command keeps the invariants, reset establishes them, and the host's other interactions touch none but those
of the bytes taken. -/
theorem invariantIsKeptByEveryStep : Obligations.InvariantIsKeptByEveryStep := by
  unfold Obligations.InvariantIsKeptByEveryStep
  intro s t hs h
  rcases step_eq_next.mp h with ⟨-, rfl⟩ | ⟨w, rest, -, hx⟩ | ⟨a, rest, -, rfl⟩ | ⟨rest, -, rfl⟩ | ⟨rest, -, rfl⟩
  · exact hs
  · exact exec_keeps_inv hx (inv_withHost hs rest s.reads)
  · exact inv_withHost hs rest _
  · exact hostTake_keeps_inv (inv_withHost hs rest s.reads)
  · exact inv_reset rest s.reads s.got

/-- Settles O58. -/
theorem invariantHoldsAtReset : Obligations.InvariantHoldsAtReset := by
  unfold Obligations.InvariantHoldsAtReset
  exact inv_reset [] [] []

end Sys2Proof.Proofs.Invariant
end

section
/-! SUPPORT. The block transforms as rounds and a swap (42_cipher.md R140, R141), what they read (41_key_schedule.md R123), and that
they undo each other (42_cipher.md R146), as functions and as the commands ENC and DEC. -/

namespace Sys2Proof.Proofs.Rounds

open Sys2Proof Sys2Proof.Machine

/-! ## Rounds and the swap -/

/-- The final swap of Crypt: the halves exchanged (R141). -/
def swapHalves (b : Block12) : Block12 := rightHalf b ++ leftHalf b

/-- Rounds of feistel_round with the keys of the given indices, in their order (R140). -/
def rounds (p : Params) (keys : Nat → Byte) (order : List Nat) (b : Block12) : Block12 :=
  order.foldl (fun y i => feistelRound p y (keys i)) b

theorem leftHalf_append_rightHalf (b : Block12) : leftHalf b ++ rightHalf b = b :=
  BitVec.extractLsb'_append_extractLsb' (w := 6) (len := 6)

@[simp] theorem leftHalf_swapHalves (b : Block12) : leftHalf (swapHalves b) = rightHalf b := Cipher.leftHalf_append _ _

@[simp] theorem rightHalf_swapHalves (b : Block12) : rightHalf (swapHalves b) = leftHalf b := Cipher.rightHalf_append _ _

@[simp] theorem swapHalves_swapHalves (b : Block12) : swapHalves (swapHalves b) = b := by
  rw [swapHalves, rightHalf_swapHalves, leftHalf_swapHalves, leftHalf_append_rightHalf]

/-- Crypt's loop on the halves is feistel_round on the block, with the key indices of its passes in order, and its result is
swapped once (R141). -/
theorem crypt_eq_rounds (p : Params) (b : Block12) (keys : Nat → Byte) (n : Nat) (dir : Dir) :
    crypt p b keys n dir = swapHalves (rounds p keys ((List.range n).map (keyIndex dir n)) b) := by
  have hpass (y : Block12) (j : Nat) : cryptPass p (keys (keyIndex dir n j)) (leftHalf y, rightHalf y) =
      (leftHalf (feistelRound p y (keys (keyIndex dir n j))), rightHalf (feistelRound p y (keys (keyIndex dir n j)))) := by
    rw [Cipher.leftHalf_feistelRound, Cipher.rightHalf_feistelRound]
    rfl
  rw [crypt, cryptHalves, List.foldl_hom (fun y => (leftHalf y, rightHalf y)) hpass, rounds, List.foldl_map]
  rfl

/-- The passes of Encrypt take the keys in order (R141). -/
theorem map_keyIndex_fwd (n : Nat) : (List.range n).map (keyIndex .fwd n) = List.range n := List.map_id _

/-- The passes of Decrypt take the keys in reverse order (R141). -/
theorem map_keyIndex_rev (n : Nat) : (List.range n).map (keyIndex .rev n) = (List.range n).reverse := by
  rw [List.range_eq_range', List.reverse_range', ← List.range_eq_range', Nat.zero_add]
  rfl

theorem encrypt_eq_rounds (p : Params) (b : Block12) (keys : Nat → Byte) {n : Nat} (hn : 0 < n) :
    encrypt p b keys n = swapHalves (rounds p keys (List.range n) b) := by
  rw [encrypt, if_neg hn.ne', crypt_eq_rounds, map_keyIndex_fwd]

theorem decrypt_eq_rounds (p : Params) (b : Block12) (keys : Nat → Byte) {n : Nat} (hn : 0 < n) :
    decrypt p b keys n = swapHalves (rounds p keys (List.range n).reverse b) := by
  rw [decrypt, if_neg hn.ne', crypt_eq_rounds, map_keyIndex_rev]

/-- Settles O29: the loop of either direction on the halves is its rounds on the block. -/
theorem cryptIsRoundsThenSwap : Obligations.CryptIsRoundsThenSwap := by
  unfold Obligations.CryptIsRoundsThenSwap
  exact fun p b keys n hn => ⟨encrypt_eq_rounds p b keys hn, decrypt_eq_rounds p b keys hn⟩

/-! ## What the transforms read -/

/-- Crypt depends on the keys its passes take and on nothing else. -/
theorem crypt_congr (p : Params) (b : Block12) {keys keys' : Nat → Byte} {n : Nat} {dir dir' : Dir}
    (h : ∀ j < n, keys (keyIndex dir n j) = keys' (keyIndex dir' n j)) : crypt p b keys n dir = crypt p b keys' n dir' := by
  have halves : cryptHalves p b keys n dir = cryptHalves p b keys' n dir' :=
    List.foldl_ext _ _ _ fun lr j hj => by rw [h j (List.mem_range.mp hj)]
  rw [crypt, crypt, halves]

/-- The key index of a pass is below the count (R141). -/
theorem keyIndex_lt {n j : Nat} (hj : j < n) (dir : Dir) : keyIndex dir n j < n := by
  cases dir with
  | fwd => exact hj
  | rev => simp only [keyIndex]; omega

theorem encrypt_congr (p : Params) (b : Block12) {keys keys' : Nat → Byte} {n : Nat} (h : ∀ i < n, keys i = keys' i) :
    encrypt p b keys n = encrypt p b keys' n := by
  rw [encrypt, encrypt, crypt_congr p b fun j hj => h _ (keyIndex_lt hj .fwd)]

theorem decrypt_congr (p : Params) (b : Block12) {keys keys' : Nat → Byte} {n : Nat} (h : ∀ i < n, keys i = keys' i) :
    decrypt p b keys n = decrypt p b keys' n := by
  rw [decrypt, decrypt, crypt_congr p b fun j hj => h _ (keyIndex_lt hj .rev)]

/-- Settles O28: the block transforms read the keys below the count, and the chunk transforms the state through them. -/
theorem cipherReadsOnlyTheSchedule : Obligations.CipherReadsOnlyTheSchedule := by
  unfold Obligations.CipherReadsOnlyTheSchedule
  intro s t hnr hkeys
  have henc (b : Block12) : encBlock s b = encBlock t b := by
    rw [encBlock, encBlock, ← hnr, encrypt_congr params b hkeys]
  have hdec (b : Block12) : decBlock s b = decBlock t b := by
    rw [decBlock, decBlock, ← hnr, decrypt_congr params b hkeys]
  exact ⟨fun b => ⟨henc b, hdec b⟩, fun c => ⟨by rw [encChunk, encChunk, funext henc], by rw [decChunk, decChunk, funext hdec]⟩⟩

/-! ## The transforms undo each other -/

/-- The swap between them makes a second round with the same key undo the first (R146). -/
theorem feistelRound_swapHalves_feistelRound (p : Params) (b : Block12) (k : Byte) :
    feistelRound p (swapHalves (feistelRound p b k)) k = swapHalves b := by
  rw [feistelRound, rightHalf_swapHalves, leftHalf_swapHalves, Cipher.leftHalf_feistelRound, Cipher.rightHalf_feistelRound,
    BitVec.xor_assoc, BitVec.xor_self, BitVec.xor_zero]
  rfl

/-- Rounds, a swap, and the same rounds in reverse are the swap: the innermost round is undone first (R146). -/
theorem rounds_reverse_swapHalves_rounds (p : Params) (keys : Nat → Byte) (order : List Nat) (b : Block12) :
    rounds p keys order.reverse (swapHalves (rounds p keys order b)) = swapHalves b := by
  induction order generalizing b with
  | nil => rfl
  | cons i order ih =>
    calc rounds p keys (i :: order).reverse (swapHalves (rounds p keys (i :: order) b))
        = feistelRound p (rounds p keys order.reverse (swapHalves (rounds p keys order (feistelRound p b (keys i)))))
            (keys i) := by rw [rounds, List.reverse_cons, List.foldl_append]; rfl
      _ = feistelRound p (swapHalves (feistelRound p b (keys i))) (keys i) := by rw [ih]
      _ = swapHalves b := feistelRound_swapHalves_feistelRound p b (keys i)

theorem decrypt_encrypt (p : Params) (b : Block12) (keys : Nat → Byte) (n : Nat) :
    decrypt p (encrypt p b keys n) keys n = b := by
  rcases n.eq_zero_or_pos with rfl | hn
  · rfl
  · rw [encrypt_eq_rounds p b keys hn, decrypt_eq_rounds p _ keys hn, rounds_reverse_swapHalves_rounds, swapHalves_swapHalves]

theorem encrypt_decrypt (p : Params) (b : Block12) (keys : Nat → Byte) (n : Nat) :
    encrypt p (decrypt p b keys n) keys n = b := by
  rcases n.eq_zero_or_pos with rfl | hn
  · rfl
  · have h := rounds_reverse_swapHalves_rounds p keys (List.range n).reverse b
    rw [List.reverse_reverse] at h
    rw [decrypt_eq_rounds p b keys hn, encrypt_eq_rounds p _ keys hn, h, swapHalves_swapHalves]

/-- Settles O31: the reversed rounds undo the rounds, and the two swaps cancel. -/
theorem decryptInvertsEncrypt : Obligations.DecryptInvertsEncrypt := by
  unfold Obligations.DecryptInvertsEncrypt
  exact fun p b keys n => ⟨decrypt_encrypt p b keys n, encrypt_decrypt p b keys n⟩

theorem decBlock_encBlock (s : State) (b : Block12) : decBlock s (encBlock s b) = b := decrypt_encrypt _ _ _ _

theorem encBlock_decBlock (s : State) (b : Block12) : encBlock s (decBlock s b) = b := encrypt_decrypt _ _ _ _

/-- Settles O32: ENC and DEC write the block transforms' value to RESULT and leave the schedule, under which these undo each
other. -/
theorem decCommandInvertsEncCommand : Obligations.DecCommandInvertsEncCommand := by
  unfold Obligations.DecCommandInvertsEncCommand
  intro b s hkv
  constructor
  · exact ⟨_, _, Cipher.exec_enc_of_kv hkv b, Cipher.exec_dec_of_kv (s := { s with result := encBlock s b, lasterr := 0 }) hkv _,
      decBlock_encBlock s b⟩
  · exact ⟨_, _, Cipher.exec_dec_of_kv hkv b, Cipher.exec_enc_of_kv (s := { s with result := decBlock s b, lasterr := 0 }) hkv _,
      encBlock_decBlock s b⟩

/-! ## Where the directions agree -/

/-- With equal keys below the count the passes of both directions take the same keys (R144). -/
theorem decrypt_eq_encrypt_of_equal_keys (p : Params) (b : Block12) {keys : Nat → Byte} {n : Nat}
    (h : ∀ i < n, keys i = keys 0) : decrypt p b keys n = encrypt p b keys n := by
  have passes : crypt p b keys n .rev = crypt p b keys n .fwd :=
    crypt_congr p b fun j hj => (h _ (keyIndex_lt hj .rev)).trans (h _ (keyIndex_lt hj .fwd)).symm
  rw [decrypt, encrypt, passes]

/-- Settles O33. -/
theorem equalKeysMakeDecEqualEnc : Obligations.EqualKeysMakeDecEqualEnc := by
  unfold Obligations.EqualKeysMakeDecEqualEnc
  exact fun p b _ _ => decrypt_eq_encrypt_of_equal_keys p b

/-! ## DEC -/

/-- Decryption under the current schedule, with the test for zero rounds made on NR itself (R144). -/
theorem decBlock_eq_ite (s : State) (b : Block12) :
    decBlock s b = if s.nr = 0 then b else crypt params b (roundKeyEntry s) s.nr.toNat .rev := by
  split
  case isTrue h => exact Cipher.decBlock_of_nr_zero h b
  case isFalse h => exact if_neg (mt BitVec.eq_of_toNat_eq h)

/-- One round has one key (R144). -/
theorem decBlock_eq_encBlock_of_nr_one {s : State} (h : s.nr = 1) (b : Block12) : decBlock s b = encBlock s b := by
  rw [decBlock, encBlock, h]
  exact decrypt_eq_encrypt_of_equal_keys params b fun i hi => by rw [Nat.lt_one_iff.mp hi]

theorem exec_dec_of_not_kv {s : State} (h : s.kv = false) (b : Block12) :
    exec (.dec b) s = .next { s with lasterr := 4, sticky := s.sticky ||| 0b01000 } :=
  execDec_eq_next.mpr (.inl ⟨h, rfl⟩)

theorem exec_enc_of_not_kv {s : State} (h : s.kv = false) (b : Block12) :
    exec (.enc b) s = .next { s with lasterr := 4, sticky := s.sticky ||| 0b01000 } :=
  execEnc_eq_next.mpr (.inl ⟨h, rfl⟩)

theorem exec_dec_eq_exec_enc_of_nr_one {s : State} (h : s.nr = 1) (b : Block12) : exec (.dec b) s = exec (.enc b) s := by
  cases hkv : s.kv with
  | false => rw [exec_dec_of_not_kv hkv, exec_enc_of_not_kv hkv]
  | true => rw [Cipher.exec_dec_of_kv hkv, Cipher.exec_enc_of_kv hkv, decBlock_eq_encBlock_of_nr_one h]

/-- Settles O35: with a schedule DEC writes the block decrypted under it, which with one round is the block encrypted, and without
one both commands are refused alike. -/
theorem decCommand : Obligations.DecCommand := by
  unfold Obligations.DecCommand
  refine ⟨fun b s hkv => ?_, fun b s hkv => exec_dec_of_not_kv hkv b, fun _ => Encoding.decode_of_opField_dec,
    fun b s hnr => exec_dec_eq_exec_enc_of_nr_one hnr b, ?_⟩
  · rw [Cipher.exec_dec_of_kv hkv, decBlock_eq_ite]
  · -- the example of R144
    exact ⟨_, rfl, by decide⟩

/-! ## Chunks -/

theorem chunkValue_high (c : Chunk) : (chunkValue c).extractLsb' 16 8 = c.b0 :=
  (BitVec.extractLsb'_append_eq_of_le (by omega)).trans BitVec.extractLsb'_append_eq_left

theorem chunkValue_middle (c : Chunk) : (chunkValue c).extractLsb' 8 8 = c.b1 :=
  (BitVec.extractLsb'_append_eq_of_le (by omega)).trans BitVec.extractLsb'_append_eq_right

theorem chunkValue_low (c : Chunk) : (chunkValue c).extractLsb' 0 8 = c.b2 := BitVec.extractLsb'_append_eq_right

/-- The two blocks of a chunk are its 24-bit value cut in two (43_framer.md R160). -/
theorem pack_append (c : Chunk) : (pack c).1 ++ (pack c).2 = chunkValue c :=
  BitVec.extractLsb'_append_extractLsb' (w := 12) (len := 12)

/-- The three bytes that two blocks unpack to are their 24 bits cut in three (43_framer.md R161). -/
theorem chunkValue_unpack (hl : Block12 × Block12) : chunkValue (unpack hl) = hl.1 ++ hl.2 := by
  have upper := BitVec.extractLsb'_append_extractLsb'_eq_extractLsb' (x := hl.1 ++ hl.2) (start₂ := 16) (start₁ := 8)
    (len₂ := 8) (len₁ := 8) rfl
  rw [chunkValue, unpack, upper]
  exact BitVec.extractLsb'_append_extractLsb' (w := 16) (len := 8) (x := hl.1 ++ hl.2)

theorem unpack_pack (c : Chunk) : unpack (pack c) = c := by
  rw [unpack, pack_append, chunkValue_high, chunkValue_middle, chunkValue_low]

theorem pack_unpack (hl : Block12 × Block12) : pack (unpack hl) = hl := by
  rw [pack, chunkValue_unpack, BitVec.extractLsb'_append_eq_left, BitVec.extractLsb'_append_eq_right]

/-- HI is the first byte and the upper half of the middle one (43_framer.md R160). -/
theorem pack_fst (c : Chunk) : (pack c).1 = c.b0 ++ c.b1.extractLsb' 4 4 := by
  apply BitVec.eq_of_getLsbD_eq
  intro j hj
  simp only [pack, chunkValue, BitVec.getLsbD_extractLsb', BitVec.getLsbD_append]
  grind

/-- LO is the lower half of the middle byte and the last one (43_framer.md R160). -/
theorem pack_snd (c : Chunk) : (pack c).2 = c.b1.extractLsb' 0 4 ++ c.b2 := by
  apply BitVec.eq_of_getLsbD_eq
  intro j hj
  simp only [pack, chunkValue, BitVec.getLsbD_extractLsb', BitVec.getLsbD_append]
  grind

/-- Settles O37. -/
theorem unpackInvertsPack : Obligations.UnpackInvertsPack := by
  unfold Obligations.UnpackInvertsPack
  exact ⟨fun c => ⟨pack_fst c, pack_snd c⟩, unpack_pack, pack_unpack⟩

/-- Inverse block transforms make inverse chunk transforms (43_framer.md R164). -/
theorem mapChunk_mapChunk {f g : Block12 → Block12} (h : ∀ b, g (f b) = b) (c : Chunk) : mapChunk g (mapChunk f c) = c := by
  rw [mapChunk, mapChunk, pack_unpack, h, h, unpack_pack]

/-- Settles O38. -/
theorem decChunkInvertsEncChunk : Obligations.DecChunkInvertsEncChunk := by
  unfold Obligations.DecChunkInvertsEncChunk
  exact fun s c => ⟨mapChunk_mapChunk (decBlock_encBlock s) c, mapChunk_mapChunk (encBlock_decBlock s) c⟩

end Sys2Proof.Proofs.Rounds
end

section
/-! SUPPORT. The expansion's inverse (40_bitops.md R102), the S-box lookups (R104) and the vectors the source fixes of them, and
the commands CONFUSE (R107) and FEISTEL (R108). -/

namespace Sys2Proof.Proofs.BitOps

open Sys2Proof Sys2Proof.Machine

/-! ## The expansion's inverse -/

/-- The operand read back from an expansion: each of its bits from one place it was put (R100). -/
def compress (x : Byte) : Half6 :=
  x.extractLsb' 6 2 ++ bitAt x 2 ++ bitAt x 3 ++ x.extractLsb' 0 2

theorem compress_expand (h : Half6) : compress (expand h) = h := by
  revert h
  decide

/-- An expansion repeats its bits [3:2] in [5:4]. -/
theorem expand_repeats (h : Half6) : (expand h).extractLsb' 4 2 = (expand h).extractLsb' 2 2 := by
  revert h
  decide

theorem expand_compress {x : Byte} (h : x.extractLsb' 4 2 = x.extractLsb' 2 2) : expand (compress x) = x := by
  revert x
  decide

/-- Settles O17: the inverse makes the expansion injective, and is defined on the bytes that repeat their bits. -/
theorem expandIsInjective : Obligations.ExpandIsInjective := by
  unfold Obligations.ExpandIsInjective
  constructor
  · intro g h heq
    rw [← compress_expand g, heq, compress_expand]
  · intro x
    constructor
    · rintro ⟨h, rfl⟩
      exact expand_repeats h
    · exact fun h => ⟨compress x, expand_compress h⟩

/-! ## The lookups -/

/-- The two lookups are made with the two nibbles and joined (R104). -/
theorem confuse_append (p : Params) (hi lo : BitVec 4) : confuse p (hi ++ lo) = lookup p.sbox1 hi ++ lookup p.sbox2 lo := by
  rw [confuse, BitVec.extractLsb'_append_eq_left, BitVec.extractLsb'_append_eq_right]

/-- Settles O18: joining two entries of three bits is shifting the left one by three and adding the right one. -/
theorem confuseLooksUpBothNibbles : Obligations.ConfuseLooksUpBothNibbles := by
  unfold Obligations.ConfuseLooksUpBothNibbles
  intro p hi lo
  rw [confuse_append, BitVec.append_def, BitVec.shiftLeftZeroExtend_eq, BitVec.setWidth'_eq]
  rfl

/-! ## The vectors of the source -/

section
variable {p : Params} (hp : pinned p)
include hp

theorem confuse_74 : confuse p 0x74 = 0x07 := by
  obtain ⟨-, h7, -, -, h4, -⟩ := hp
  rw [show (0x74 : Byte) = 0x7#4 ++ 0x4#4 from rfl, confuse_append]
  simp [lookup, h7, h4]

theorem confuse_0A : confuse p 0x0A = 0x28 := by
  obtain ⟨h0, -, -, -, -, hA⟩ := hp
  rw [show (0x0A : Byte) = 0x0#4 ++ 0xA#4 from rfl, confuse_append]
  simp [lookup, h0, hA]

theorem confuse_92 : confuse p 0x92 = 0x26 := by
  obtain ⟨-, -, h9, h2, -, -⟩ := hp
  rw [show (0x92 : Byte) = 0x9#4 ++ 0x2#4 from rfl, confuse_append]
  simp [lookup, h9, h2]

end

/-- The function of a half and a key, by the byte that the expanded half and the key make (R105). -/
theorem feistel_of_xor {p : Params} {h : Half6} {k x : Byte} {y : Half6} (hx : expand h ^^^ k = x) (hy : confuse p x = y) :
    feistel p h k = y := by
  rw [feistel, hx, hy]

/-- A round by the byte that the expanded right half and the key make (42_cipher.md R140). -/
theorem feistelRound_of_xor {p : Params} {b : Block12} {k x : Byte} {y : Half6} (hx : expand (rightHalf b) ^^^ k = x)
    (hy : confuse p x = y) : feistelRound p b k = rightHalf b ++ (leftHalf b ^^^ y) := by
  rw [feistelRound, feistel, hx, hy]

section
variable {p : Params} (hp : pinned p)
include hp

theorem feistel_25_3B : feistel p 0x25 0x3B = 0x26 := feistel_of_xor (by decide) (confuse_92 hp)

theorem feistel_35_E3 : feistel p 0x35 0xE3 = 0x28 := feistel_of_xor (by decide) (confuse_0A hp)

theorem feistelRound_D65_3B : feistelRound p 0xD65 0x3B = 0x953 :=
  (feistelRound_of_xor (by decide) (confuse_92 hp)).trans (by decide)

theorem feistelRound_8B5_E3 : feistelRound p 0x8B5 0xE3 = 0xD4A :=
  (feistelRound_of_xor (by decide) (confuse_0A hp)).trans (by decide)

theorem feistelRound_8B5_9D : feistelRound p 0x8B5 0x9D = 0xD65 :=
  (feistelRound_of_xor (by decide) (confuse_74 hp)).trans (by decide)

end

/-- Encryption of one round: the round and the swap (42_cipher.md R141). -/
theorem encrypt_one (p : Params) (b : Block12) (keys : Nat → Byte) :
    encrypt p b keys 1 = Rounds.swapHalves (feistelRound p b (keys 0)) :=
  Rounds.encrypt_eq_rounds p b keys Nat.one_pos

/-- Encryption of two rounds: the rounds and one swap (42_cipher.md R141). -/
theorem encrypt_two (p : Params) (b : Block12) (keys : Nat → Byte) :
    encrypt p b keys 2 = Rounds.swapHalves (feistelRound p (feistelRound p b (keys 0)) (keys 1)) :=
  Rounds.encrypt_eq_rounds p b keys Nat.two_pos

/-- Decryption of one round is its encryption (42_cipher.md R144). -/
theorem decrypt_one (p : Params) (b : Block12) (keys : Nat → Byte) : decrypt p b keys 1 = encrypt p b keys 1 :=
  Rounds.decrypt_eq_encrypt_of_equal_keys p b fun i hi => by rw [Nat.lt_one_iff.mp hi]

/-- Settles O19: every vector reads the tables at 0x74, 0x0A and 0x92 only, six pinned entries; decryption of two rounds undoes
encryption, and of one round is it. -/
theorem sourceVectorsHoldForPinnedTables : Obligations.SourceVectorsHoldForPinnedTables := by
  unfold Obligations.SourceVectorsHoldForPinnedTables
  intro p hp
  refine ⟨confuse_74 hp, confuse_0A hp, feistel_25_3B hp, feistel_35_E3 hp, feistelRound_D65_3B hp, feistelRound_8B5_E3 hp,
    fun keys h0 h1 => ?keys9D3B, fun keys h0 => ?keyE3⟩
  case keys9D3B =>
    have two : encrypt p 0x8B5 keys 2 = 0x4E5 := by
      rw [encrypt_two, h0, h1, feistelRound_8B5_9D hp, feistelRound_D65_3B hp]
      decide
    have one : encrypt p 0x8B5 keys 1 = 0x975 := by
      rw [encrypt_one, h0, feistelRound_8B5_9D hp]
      decide
    exact ⟨two, two ▸ Rounds.decrypt_encrypt p 0x8B5 keys 2, one, (decrypt_one p _ keys).trans one⟩
  case keyE3 =>
    have one : encrypt p 0x8B5 keys 1 = 0x2B5 := by
      rw [encrypt_one, h0, feistelRound_8B5_E3 hp]
      decide
    exact ⟨one, (decrypt_one p _ keys).trans one⟩

/-! ## CONFUSE and FEISTEL -/

theorem exec_confuse (x : Byte) (s : State) :
    exec (.confuse x) s = .next { s with result := (confuse params x).setWidth 12, lasterr := 0 } := rfl

theorem exec_feistel (h : Half6) (k : Byte) (s : State) :
    exec (.feistel h k) s = .next { s with result := (confuse params (expand h ^^^ k)).setWidth 12, lasterr := 0 } := rfl

/-- A key equal to the expanded half cancels it. -/
theorem feistel_expand_self (p : Params) (h : Half6) : feistel p h (expand h) = confuse p 0x00 := by
  rw [feistel, BitVec.xor_self]
  rfl

/-- The machine's tables are pinned (R103). -/
theorem pinned_params : pinned params := by decide

/-- Settles O21: the command's equation, its row, and the vectors of any pinned tables. -/
theorem confuseCommand : Obligations.ConfuseCommand := by
  unfold Obligations.ConfuseCommand
  refine ⟨exec_confuse, fun _ => Encoding.decode_of_opField_confuse, fun x => Expand.extractLsb'_setWidth_self_eq_zero _, ?_, ?_⟩
  · rw [confuse_74 pinned_params]; rfl
  · rw [confuse_0A pinned_params]; rfl

/-- Settles O22: the command's equation, its row, and the vectors of any pinned tables. -/
theorem feistelCommand : Obligations.FeistelCommand := by
  unfold Obligations.FeistelCommand
  refine ⟨exec_feistel, fun _ => Encoding.decode_of_opField_feistel, fun h k => Expand.extractLsb'_setWidth_self_eq_zero _,
    feistel_expand_self params, ?_, ?_⟩
  · rw [feistel_25_3B pinned_params]; rfl
  · rw [feistel_35_E3 pinned_params]; rfl

end Sys2Proof.Proofs.BitOps
end

section
/-! SUPPORT. The identities of the round keys (41_key_schedule.md R123, R125). -/

namespace Sys2Proof.Proofs.RoundKeys

open Sys2Proof Sys2Proof.Machine

/-- The key of nine ones gives round keys of eight (R125). -/
theorem roundKey_ones_key {i : Nat} (hi : i ≤ 9) : roundKey 0x1FF i = 0xFF := by
  apply BitVec.eq_of_getLsbD_eq
  intro j hj
  have hone (m : Nat) (hm : m < 9) : (0x1FF : Key9).getLsbD m = true := by
    rw [show (0x1FF : Key9) = BitVec.allOnes 9 from rfl, BitVec.getLsbD_allOnes, decide_eq_true hm]
  rw [KeySchedule.roundKey_getLsbD _ hi hj, hone _ (Nat.mod_lt _ (by omega)),
    show (0xFF : Byte) = BitVec.allOnes 8 from rfl, BitVec.getLsbD_allOnes, decide_eq_true hj]

/-- Each round key is the one before moved one place up the key's ring, so they share seven bits (R125). -/
theorem roundKey_overlap (key : Key9) {i : Nat} (hi : i ≤ 8) :
    (roundKey key i).extractLsb' 0 7 = (roundKey key (i + 1)).extractLsb' 1 7 := by
  apply BitVec.eq_of_getLsbD_eq
  intro j hj
  rw [BitVec.getLsbD_extractLsb', BitVec.getLsbD_extractLsb', KeySchedule.roundKey_getLsbD key (by omega) (by omega),
    KeySchedule.roundKey_getLsbD key (by omega) (by omega), show 1 + (1 + j) + 9 - (i + 1) = 1 + (0 + j) + 9 - i by omega]

/-- Nine places are the whole ring (R125). -/
theorem rotl9_nine (key : Key9) : rotl9 key 9 = key := by
  apply BitVec.eq_of_getLsbD_eq
  intro j hj
  rw [KeySchedule.rotl9_getLsbD key le_rfl hj, Nat.add_sub_cancel, Nat.mod_eq_of_lt hj]

/-- Settles O24: the identities of the rotation, and the schedule's entries read off its definition. -/
theorem roundKeyIdentities : Obligations.RoundKeyIdentities := by
  unfold Obligations.RoundKeyIdentities
  refine ⟨fun i hi => ⟨KeySchedule.roundKey_zero_key i, roundKey_ones_key (by omega)⟩,
    fun key i hi => roundKey_overlap key (by omega), rotl9_nine, fun key n i _ => ?_⟩
  simp

end Sys2Proof.Proofs.RoundKeys
end

section
/-! SUPPORT. The assembler (30_encoding.md R90): a line assembles exactly if its operands fit, and a pseudo-command (R91) to the words of
its expansion. -/

namespace Sys2Proof.Proofs.Assembler

open Sys2Proof Sys2Proof.Machine

/-! ## When a line assembles -/

theorem assemble_of_wellFormed {a : AsmStmt} (h : asmWellFormed a = true) : assemble a = some (asmWords a) := if_pos h

theorem assemble_of_not_wellFormed {a : AsmStmt} (h : asmWellFormed a = false) : assemble a = none := by
  simp only [assemble, h]
  rfl

theorem fits_of_lt {width n : Nat} (h : n < 2 ^ width) : fits width n = true := decide_eq_true h

theorem not_fits_of_le {width n : Nat} (h : 2 ^ width ≤ n) : fits width n = false := decide_eq_false (by omega)

theorem and_fits_of_lt {v w m n : Nat} (hm : m < 2 ^ v) (hn : n < 2 ^ w) : (fits v m && fits w n) = true := by
  rw [fits_of_lt hm, fits_of_lt hn, Bool.and_self]

/-- One of two operands that does not fit is enough. -/
theorem and_fits_of_le {v w m n : Nat} (h : 2 ^ v ≤ m ∨ 2 ^ w ≤ n) : (fits v m && fits w n) = false := by
  rcases h with h | h
  · rw [not_fits_of_le h, Bool.false_and]
  · rw [not_fits_of_le h, Bool.and_false]

theorem all_fits_of_lt {ds : List Nat} (h : ∀ d ∈ ds, d < 2 ^ 8) : ds.all (fits 8) = true :=
  List.all_eq_true.mpr fun d hd => fits_of_lt (h d hd)

/-- One byte of a list that does not fit is enough. -/
theorem all_fits_of_le {ds : List Nat} {d : Nat} (hd : d ∈ ds) (h : 2 ^ 8 ≤ d) : ds.all (fits 8) = false :=
  List.all_eq_false.mpr ⟨d, hd, by simp [not_fits_of_le h]⟩

theorem sbytes_wellFormed {ds : List Nat} (hne : ds ≠ []) (h : ∀ d ∈ ds, d < 2 ^ 8) : asmWellFormed (.sbytes ds) = true := by
  simp only [asmWellFormed, all_fits_of_lt h, List.isEmpty_eq_false_iff.mpr hne]
  rfl

/-! ## Oversized operands -/

/-- Settles O60: the check of each statement fails where a `fits` in it does; the two operands that the core refuses fit. -/
theorem oversizedOperandIsAssemblerError : Obligations.OversizedOperandIsAssemblerError := by
  unfold Obligations.OversizedOperandIsAssemblerError
  refine ⟨fun k hk => ?twelve, fun n hn => ?eight, fun b k h => ?round, fun h k hh => ?feistel, fun h hh => ?expand,
    fun w hw => ?word, fun k n h => ?loadkey, fun ds d hd h => ?bytes, by decide, by decide⟩
  case twelve =>
    have err := not_fits_of_le hk
    exact ⟨assemble_of_not_wellFormed err, assemble_of_not_wellFormed err, assemble_of_not_wellFormed err⟩
  case eight =>
    have err := not_fits_of_le hn
    exact ⟨assemble_of_not_wellFormed err, assemble_of_not_wellFormed err, assemble_of_not_wellFormed err,
      assemble_of_not_wellFormed err⟩
  case round => exact assemble_of_not_wellFormed (and_fits_of_le h)
  case feistel => exact assemble_of_not_wellFormed (and_fits_of_le hh)
  case expand => exact assemble_of_not_wellFormed (not_fits_of_le hh)
  case word => exact assemble_of_not_wellFormed (not_fits_of_le hw)
  case loadkey => exact assemble_of_not_wellFormed (and_fits_of_le h)
  case bytes =>
    have err := all_fits_of_le hd h
    exact ⟨assemble_of_not_wellFormed (by rw [asmWellFormed, err, Bool.and_false]), assemble_of_not_wellFormed err,
      assemble_of_not_wellFormed err⟩

/-! ## Pseudo-commands -/

theorem assemble_loadkey {k n : Nat} (hk : k < 2 ^ 12) (hn : n < 2 ^ 8) :
    assemble (.loadkey k n) = some ([.setkey (BitVec.ofNat 12 k), .sched (BitVec.ofNat 8 n)].map encode) :=
  assemble_of_wellFormed (and_fits_of_lt hk hn)

theorem assemble_sbytes {ds : List Nat} (hne : ds ≠ []) (h : ∀ d ∈ ds, d < 2 ^ 8) :
    assemble (.sbytes ds) = some ((ds.map fun d => .sbyte (BitVec.ofNat 8 d)).map encode) := by
  rw [assemble_of_wellFormed (sbytes_wellFormed hne h), asmWords, asmBytes, List.map_map, List.map_map]
  rfl

theorem assemble_encstream {ds : List Nat} (h : ∀ d ∈ ds, d < 2 ^ 8) :
    assemble (.encstream ds) = some ((encStreamCommands (ds.map (BitVec.ofNat 8))).map encode) :=
  assemble_of_wellFormed (all_fits_of_lt h)

theorem assemble_decstream {cs : List Nat} (h : ∀ c ∈ cs, c < 2 ^ 8) :
    assemble (.decstream cs) = some ((decStreamCommands (cs.map (BitVec.ofNat 8))).map encode) :=
  assemble_of_wellFormed (all_fits_of_lt h)

/-- The words of commands decode to the commands. -/
theorem map_decode_map_encode (is : List Instr) : (is.map encode).map decode = is := by
  rw [List.map_map]
  exact (List.map_congr_left fun i _ => Encoding.decode_encode i).trans (List.map_id is)

/-- Settles O59: each pseudo-command assembles to its commands encoded, which decode to them. -/
theorem pseudoCommandsAssembleToTheirExpansions : Obligations.PseudoCommandsAssembleToTheirExpansions := by
  unfold Obligations.PseudoCommandsAssembleToTheirExpansions
  refine ⟨fun k n => assemble_loadkey, fun ds hne h => ?sbytes, fun ds h => ?encstream, fun cs h => ?decstream,
    fun k n hk hn => ?loadkeyDecodes, fun ds h => ⟨?encstreamDecodes, ?decstreamDecodes, fun hne => ?sbytesDecodes⟩⟩
  case sbytes => rw [assemble_sbytes hne h, List.map_map]; rfl
  case encstream => rw [assemble_encstream h]; simp [encStreamCommands, streamPad]
  case decstream => rw [assemble_decstream h]; simp [decStreamCommands]
  case loadkeyDecodes => rw [assemble_loadkey hk hn, Option.map_some, map_decode_map_encode]
  case encstreamDecodes => rw [assemble_encstream h, Option.map_some, map_decode_map_encode]
  case decstreamDecodes => rw [assemble_decstream h, Option.map_some, map_decode_map_encode]
  case sbytesDecodes => rw [assemble_sbytes hne h, Option.map_some, map_decode_map_encode]

end Sys2Proof.Proofs.Assembler
end

section
/-! SUPPORT. Streams of commands (43_framer.md R162 to R172): what an encryption and a decryption stream emit, chunk by chunk, how a
decryption stream fails, and that decryption undoes encryption. -/

namespace Sys2Proof.Proofs.Streams

open Sys2Proof Sys2Proof.Machine Sys2Proof.Safety

/-! ## Running commands and emitting bytes -/

/-- Commands that answer a state hand it to the commands after them (20_memory.md R51). -/
theorem execAll_append_of_next {is : List Instr} {s t : State} (h : execAll is s = .next t) (js : List Instr) :
    execAll (is ++ js) s = execAll js t := by
  induction is generalizing s with
  | nil =>
    obtain rfl := Host.Outcome.next.inj h
    rfl
  | cons i is ih =>
    rw [List.cons_append, execAll]
    rw [execAll] at h
    cases hi : exec i s with
    | next u =>
      simp only [hi] at h ⊢
      exact ih h
    | fault r => simp [hi] at h
    | refused r => simp [hi] at h

/-- From `s` to `t` the bytes were appended to OUT and counted, and the registers outside the stream were left as they were. -/
structure Emits (s t : State) (bytes : List Byte) : Prop where
  out : t.out = s.out ++ bytes
  ocnt : t.ocnt = s.ocnt + BitVec.ofNat 32 bytes.length
  keys : SameKeys s t
  result : t.result = s.result
  sticky : t.sticky = s.sticky

theorem Emits.trans {s t u : State} {bs cs : List Byte} (hst : Emits s t bs) (htu : Emits t u cs) : Emits s u (bs ++ cs) := by
  obtain ⟨hkey, hnr, hkv, hrk⟩ := hst.keys
  obtain ⟨hkey', hnr', hkv', hrk'⟩ := htu.keys
  exact {
    out := by rw [htu.out, hst.out, List.append_assoc]
    ocnt := by rw [htu.ocnt, hst.ocnt, BitVec.add_assoc, List.length_append, BitVec.ofNat_add]
    keys := ⟨hkey'.trans hkey, hnr'.trans hnr, hkv'.trans hkv, hrk'.trans hrk⟩
    result := htu.result.trans hst.result
    sticky := htu.sticky.trans hst.sticky }

theorem Emits.encBlock_eq {s t : State} {bs : List Byte} (h : Emits s t bs) : encBlock t = encBlock s := by
  obtain ⟨-, hnr, -, hrk⟩ := h.keys
  exact encBlock_congr hrk hnr

theorem Emits.decBlock_eq {s t : State} {bs : List Byte} (h : Emits s t bs) : decBlock t = decBlock s := by
  obtain ⟨-, hnr, -, hrk⟩ := h.keys
  exact decBlock_congr hrk hnr

theorem Emits.emittedSlice_eq {s t : State} {bs : List Byte} (h : Emits s t bs) : emittedSlice s t = bs := by
  rw [emittedSlice, h.out, List.drop_left]

/-- The stream's SEND completed with LASTERR 0, and the commands up to it emitted the bytes. -/
structure Completes (s t : State) (bytes : List Byte) : Prop extends Emits s t bytes where
  idle : t.smode = .idle
  valid : StreamResultValid t

theorem Completes.of_emits {s t u : State} {bs cs : List Byte} (hst : Emits s t bs) (htu : Completes t u cs) :
    Completes s u (bs ++ cs) :=
  { hst.trans htu.toEmits with idle := htu.idle, valid := htu.valid }

/-! ## The first two bytes of a chunk -/

/-- The state after the first byte of a chunk (R167). -/
def oneBuffered (c0 : Byte) (s : State) : State := { s with buf := { s.buf with b0 := c0 }, bcnt := 1, lasterr := 0 }

/-- The state after the first two bytes of a chunk (R167). -/
def twoBuffered (c0 c1 : Byte) (s : State) : State := { s with buf := ⟨c0, c1, s.buf.b2⟩, bcnt := 2, lasterr := 0 }

theorem oneBuffered_emits (c0 : Byte) (s : State) : Emits s (oneBuffered c0 s) [] :=
  ⟨(List.append_nil _).symm, (BitVec.add_zero _).symm, ⟨rfl, rfl, rfl, rfl⟩, rfl, rfl⟩

theorem twoBuffered_emits (c0 c1 : Byte) (s : State) : Emits s (twoBuffered c0 c1 s) [] :=
  ⟨(List.append_nil _).symm, (BitVec.add_zero _).symm, ⟨rfl, rfl, rfl, rfl⟩, rfl, rfl⟩

section
variable {s : State} (hm : s.smode = .enc ∨ s.smode = .dec) (hb : s.bcnt = 0)
include hm hb

theorem execAll_oneBuffered (c0 : Byte) (is : List Instr) : execAll (.sbyte c0 :: is) s = execAll is (oneBuffered c0 s) :=
  Framer.execAll_cons_of_next (Framer.exec_sbyte_first hm hb c0) is

theorem execAll_twoBuffered (c0 c1 : Byte) (is : List Instr) :
    execAll (.sbyte c0 :: .sbyte c1 :: is) s = execAll is (twoBuffered c0 c1 s) :=
  (execAll_oneBuffered hm hb c0 _).trans
    (Framer.execAll_cons_of_next (Framer.exec_sbyte_second (s := oneBuffered c0 s) hm rfl c1) is)

end

/-! ## Encryption -/

/-- In ENC the third byte's chunk is emitted at once (R167). -/
theorem exec_sbyte_completes_enc {s : State} (hm : s.smode = .enc) (hb : 2 ≤ s.bcnt.toNat) (d : Byte) :
    exec (.sbyte d) s = .next { s with
      bcnt := 0, out := s.out ++ chunkBytes (encChunk s ⟨s.buf.b0, s.buf.b1, d⟩), ocnt := s.ocnt + 3, lasterr := 0 } :=
  execSbyte_eq_next.mpr (.inr (.inr (.inr (.inr (.inl ⟨hm, hb, rfl⟩)))))

/-- Three bytes in ENC emit their chunk encrypted, and the stream stands on a whole chunk again. -/
theorem execAll_chunk_enc {s : State} (hm : s.smode = .enc) (hb : s.bcnt = 0) (c0 c1 c2 : Byte) (is : List Instr) :
    ∃ t, execAll (.sbyte c0 :: .sbyte c1 :: .sbyte c2 :: is) s = execAll is t ∧ t.smode = .enc ∧ t.bcnt = 0 ∧
      t.pad = s.pad ∧ Emits s t (chunkBytes (mapChunk (encBlock s) ⟨c0, c1, c2⟩)) := by
  have third := exec_sbyte_completes_enc (s := twoBuffered c0 c1 s) hm le_rfl c2
  exact ⟨_, (execAll_twoBuffered (.inl hm) hb c0 c1 _).trans (Framer.execAll_cons_of_next third is), hm, rfl, rfl,
    ⟨rfl, rfl, ⟨rfl, rfl, rfl, rfl⟩, rfl, rfl⟩⟩

/-- SEND on a whole chunk emits nothing more. -/
theorem exec_send_completes_whole {s : State} (hm : s.smode = .enc) (hb : s.bcnt = 0) (hp : s.pad = 0) :
    ∃ t, exec .send s = .next t ∧ Completes s t [] :=
  ⟨_, Framer.exec_send_enc_whole hm hb hp,
    ⟨(List.append_nil _).symm, (BitVec.add_zero _).symm, ⟨rfl, rfl, rfl, rfl⟩, rfl, rfl⟩, rfl, rfl⟩

/-- SEND on a partial chunk emits it filled and encrypted (R168). -/
theorem exec_send_completes_partial {s : State} (hm : s.smode = .enc) (hp : s.pad.toNat = (3 - s.bcnt.toNat) % 3)
    (hb : s.bcnt.toNat ≠ 0) :
    ∃ t, exec .send s = .next t ∧
      Completes s t (chunkBytes (mapChunk (encBlock s) (fillFrom s.bcnt.toNat 0x00 s.buf))) :=
  ⟨_, Framer.exec_send_enc_partial hm hp hb, ⟨rfl, rfl, ⟨rfl, rfl, rfl, rfl⟩, rfl, rfl⟩, rfl, rfl⟩

/-- One command run alone. -/
theorem execAll_single {i : Instr} {s t : State} (h : exec i s = .next t) : execAll [i] s = .next t :=
  Framer.execAll_cons_of_next h []

/-- From a whole chunk in ENC, with the header for the bytes to come, their SBYTEs and SEND emit them padded and encrypted, chunk by
chunk (R170). -/
theorem execAll_plain_enc : ∀ (plain : List Byte) {s : State}, s.smode = .enc → s.bcnt = 0 →
    s.pad.toNat = streamPad plain.length →
    ∃ t, execAll (plain.map Instr.sbyte ++ [.send]) s = .next t ∧
      Completes s t (mapChunks (encBlock s) (plain ++ List.replicate (streamPad plain.length) 0x00))
  | [], s, hm, hb, hp => by
    obtain ⟨t, ht, done⟩ := exec_send_completes_whole hm hb (BitVec.eq_of_toNat_eq hp)
    exact ⟨t, execAll_single ht, done⟩
  | [c0], s, hm, hb, hp => by
    obtain ⟨t, ht, done⟩ := exec_send_completes_partial (s := oneBuffered c0 s) hm hp Nat.one_ne_zero
    have all := done.of_emits (oneBuffered_emits c0 s)
    exact ⟨t, (execAll_oneBuffered (.inl hm) hb c0 _).trans (execAll_single ht), all⟩
  | [c0, c1], s, hm, hb, hp => by
    obtain ⟨t, ht, done⟩ := exec_send_completes_partial (s := twoBuffered c0 c1 s) hm hp two_ne_zero
    have all := done.of_emits (twoBuffered_emits c0 c1 s)
    exact ⟨t, (execAll_twoBuffered (.inl hm) hb c0 c1 _).trans (execAll_single ht), all⟩
  | c0 :: c1 :: c2 :: rest, s, hm, hb, hp => by
    have hlen : streamPad (rest.length + 3) = streamPad rest.length := by simp [streamPad]
    obtain ⟨u, hu, hmu, hbu, hpu, emits⟩ := execAll_chunk_enc hm hb c0 c1 c2 (rest.map Instr.sbyte ++ [.send])
    obtain ⟨t, ht, done⟩ := execAll_plain_enc rest hmu hbu (by rw [hpu, hp]; exact hlen)
    refine ⟨t, hu.trans ht, ?_⟩
    rw [emits.encBlock_eq] at done
    simp only [List.length_cons, List.cons_append, mapChunks, hlen]
    exact done.of_emits emits

theorem streamPad_le_two (m : Nat) : streamPad m ≤ 2 := by
  unfold streamPad
  omega

/-- The header byte carries the padding length. -/
theorem toNat_ofNat_streamPad (m : Nat) : (BitVec.ofNat 8 (streamPad m)).toNat = streamPad m := by
  have h := streamPad_le_two m
  rw [BitVec.toNat_ofNat]
  omega

/-- SENC of a padding length opens an encryption stream with the header for it (R165). -/
theorem exec_senc_emits {s : State} {p : Byte} (hm : s.smode = .idle) (hk : s.kv = true) (hp : p.toNat ≤ 2) :
    ∃ t, exec (.senc p) s = .next t ∧ t.smode = .enc ∧ t.bcnt = 0 ∧ t.pad.toNat = p.toNat ∧ Emits s t [p] :=
  ⟨_, Framer.exec_senc_opens hm hk hp, rfl, rfl, Invariant.toNat_setWidth_of_le_two hp, rfl, rfl, ⟨rfl, rfl, rfl, rfl⟩, rfl, rfl⟩

/-- An encryption stream completes with EncStream of its plaintext emitted (R170). -/
theorem execAll_encStreamCommands {s : State} (hm : s.smode = .idle) (hk : s.kv = true) (plain : List Byte) :
    ∃ t, execAll (encStreamCommands plain) s = .next t ∧ Completes s t (encStream (encBlock s) 0x00 plain) := by
  have hheader := toNat_ofNat_streamPad plain.length
  obtain ⟨u, hu, hmu, hbu, hpu, emits⟩ := exec_senc_emits hm hk (hheader.trans_le (streamPad_le_two _))
  obtain ⟨t, ht, done⟩ := execAll_plain_enc plain hmu hbu (hpu.trans hheader)
  rw [emits.encBlock_eq] at done
  exact ⟨t, (Framer.execAll_cons_of_next hu _).trans ht, done.of_emits emits⟩

/-- Settles O43. -/
theorem encryptionStreamEmitsEncStream : Obligations.EncryptionStreamEmitsEncStream := by
  unfold Obligations.EncryptionStreamEmitsEncStream
  intro s plain hm hk
  obtain ⟨t, ht, done⟩ := execAll_encStreamCommands hm hk plain
  exact ⟨t, ht, done.out, done.ocnt, done.idle, done.valid, done.keys, done.result, done.sticky⟩

/-! ## Decryption -/

/-- Three bytes in DEC emit the chunk held before them and hold their own, decrypted. -/
theorem execAll_chunk_dec {s : State} (hm : s.smode = .dec) (hb : s.bcnt = 0) (c0 c1 c2 : Byte) (is : List Instr) :
    ∃ t, execAll (.sbyte c0 :: .sbyte c1 :: .sbyte c2 :: is) s = execAll is t ∧ t.smode = .dec ∧ t.bcnt = 0 ∧
      t.pad = s.pad ∧ heldBytes t = chunkBytes (mapChunk (decBlock s) ⟨c0, c1, c2⟩) ∧ Emits s t (heldBytes s) := by
  have third := Framer.exec_sbyte_completes_dec (s := twoBuffered c0 c1 s) hm le_rfl c2
  exact ⟨_, (execAll_twoBuffered (.inr hm) hb c0 c1 _).trans (Framer.execAll_cons_of_next third is), hm, rfl, rfl,
    rfl, ⟨rfl, rfl, ⟨rfl, rfl, rfl, rfl⟩, rfl, rfl⟩⟩

/-- SEND on a whole chunk emits the held chunk without its padding (R168). -/
theorem exec_send_completes_dec {s : State} (hm : s.smode = .dec) (hb : s.bcnt = 0) :
    ∃ t, exec .send s = .next t ∧ Completes s t ((heldBytes s).take (3 - s.pad.toNat)) :=
  ⟨_, Framer.exec_send_dec hm hb, ⟨rfl, rfl, ⟨rfl, rfl, rfl, rfl⟩, rfl, rfl⟩, rfl, rfl⟩

/-- HOLD holds a whole chunk or nothing, so leaving off a padding is taking the rest of three bytes. -/
theorem heldBytes_take_three_sub (s : State) (p : Nat) :
    (heldBytes s).take (3 - p) = (heldBytes s).take ((heldBytes s).length - p) := by
  cases hv : s.hv with
  | false => simp [Framer.heldBytes_of_not_hv hv]
  | true => simp [Framer.heldBytes_of_hv hv]

theorem length_rest_mod_three {c0 c1 c2 : Byte} {rest : List Byte} (h : (c0 :: c1 :: c2 :: rest).length % 3 = 0) :
    rest.length % 3 = 0 := by
  simp only [List.length_cons] at h
  omega

/-- From a whole chunk in DEC the SBYTEs of whole chunks and SEND emit the chunk held and those after it decrypted, all but the
padding at their end (R170). -/
theorem execAll_body_dec : ∀ (body : List Byte) {s : State}, s.smode = .dec → s.bcnt = 0 → s.pad.toNat ≤ 2 →
    body.length % 3 = 0 →
    ∃ t, execAll (body.map Instr.sbyte ++ [.send]) s = .next t ∧
      Completes s t ((heldBytes s ++ mapChunks (decBlock s) body).take ((heldBytes s).length + body.length - s.pad.toNat))
  | [], s, hm, hb, _, _ => by
    obtain ⟨t, ht, done⟩ := exec_send_completes_dec hm hb
    rw [heldBytes_take_three_sub] at done
    refine ⟨t, execAll_single ht, ?_⟩
    simpa [mapChunks] using done
  | [_], _, _, _, _, hlen | [_, _], _, _, _, _, hlen => absurd hlen (by simp)
  | c0 :: c1 :: c2 :: rest, s, hm, hb, hp, hlen => by
    obtain ⟨u, hu, hmu, hbu, hpu, held, emits⟩ := execAll_chunk_dec hm hb c0 c1 c2 (rest.map Instr.sbyte ++ [.send])
    have hrest := length_rest_mod_three hlen
    obtain ⟨t, ht, done⟩ := execAll_body_dec rest hmu hbu (hpu ▸ hp) hrest
    refine ⟨t, hu.trans ht, ?_⟩
    rw [held, hpu, emits.decBlock_eq, chunkBytes_length] at done
    have hcount : (heldBytes s).length + (rest.length + 3) - s.pad.toNat =
        (heldBytes s).length + (3 + rest.length - s.pad.toNat) := by omega
    simp only [List.length_cons, mapChunks, hcount, List.take_length_add_append]
    exact done.of_emits emits

/-- SDEC opens a decryption stream that waits for its header (R166). -/
theorem exec_sdec_opens {s : State} (hm : s.smode = .idle) (hk : s.kv = true) :
    ∃ t, exec .sdec s = .next t ∧ t.smode = .decHdr ∧ heldBytes t = [] ∧ t.bcnt = 0 ∧ Emits s t [] :=
  ⟨_, execSdec_eq_next.mpr (.inr ⟨hm, hk, rfl⟩), rfl, rfl, rfl, (List.append_nil _).symm, (BitVec.add_zero _).symm,
    ⟨rfl, rfl, rfl, rfl⟩, rfl, rfl⟩

/-- A header of at most 2 is taken as the padding length (R167). -/
theorem exec_sbyte_header {s : State} {d : Byte} (hm : s.smode = .decHdr) (hd : d.toNat ≤ 2) :
    ∃ t, exec (.sbyte d) s = .next t ∧ t.smode = .dec ∧ t.pad.toNat = d.toNat ∧ heldBytes t = heldBytes s ∧
      t.bcnt = s.bcnt ∧ Emits s t [] :=
  ⟨_, execSbyte_eq_next.mpr (.inr (.inr (.inl ⟨hm, hd, rfl⟩))), rfl, Invariant.toNat_setWidth_of_le_two hd, rfl, rfl,
    (List.append_nil _).symm, (BitVec.add_zero _).symm, ⟨rfl, rfl, rfl, rfl⟩, rfl, rfl⟩

/-- SDEC and a header of at most 2 stand on a whole chunk in DEC, with no chunk held. -/
theorem execAll_sdec_header {s : State} (hm : s.smode = .idle) (hk : s.kv = true) {d : Byte} (hd : d.toNat ≤ 2) :
    ∃ t, execAll [.sdec, .sbyte d] s = .next t ∧ t.smode = .dec ∧ t.pad.toNat = d.toNat ∧ heldBytes t = [] ∧ t.bcnt = 0 ∧
      Emits s t [] := by
  obtain ⟨u, hu, hmu, heldu, hbu, emitsu⟩ := exec_sdec_opens hm hk
  obtain ⟨t, ht, hmt, hpt, heldt, hbt, emitst⟩ := exec_sbyte_header hmu hd
  exact ⟨t, (Framer.execAll_cons_of_next hu _).trans (execAll_single ht), hmt, hpt, heldt.trans heldu, hbt.trans hbu,
    emitsu.trans emitst⟩

/-- DecStream succeeds on a header of at most 2 and whole chunks (R170). -/
theorem decStream_eq_some {g : Block12 → Block12} {cipher plain : List Byte} (h : decStream g cipher = some plain) :
    ∃ header body, cipher = header :: body ∧ header.toNat ≤ 2 ∧ body.length % 3 = 0 ∧
      plain = (mapChunks g body).take (body.length - header.toNat) := by
  cases cipher with
  | nil => cases h
  | cons header body =>
    rw [decStream] at h
    split at h
    case isTrue => cases h
    case isFalse hok => exact ⟨header, body, rfl, by omega, by omega, (Option.some.inj h).symm⟩

/-- A decryption stream completes with DecStream of its ciphertext emitted (R170). -/
theorem execAll_decStreamCommands {s : State} (hm : s.smode = .idle) (hk : s.kv = true) {cipher plain : List Byte}
    (h : decStream (decBlock s) cipher = some plain) :
    ∃ t, execAll (decStreamCommands cipher) s = .next t ∧ Completes s t plain := by
  obtain ⟨header, body, rfl, hheader, hlen, rfl⟩ := decStream_eq_some h
  obtain ⟨u, hu, hmu, hpu, held, hbu, emits⟩ := execAll_sdec_header hm hk hheader
  obtain ⟨t, ht, done⟩ := execAll_body_dec body hmu hbu (hpu.trans_le hheader) hlen
  rw [held, hpu, emits.decBlock_eq, List.length_nil, Nat.zero_add, List.nil_append] at done
  exact ⟨t, (execAll_append_of_next hu _).trans ht, done.of_emits emits⟩

/-- Settles O44. -/
theorem decryptionStreamEmitsDecStream : Obligations.DecryptionStreamEmitsDecStream := by
  unfold Obligations.DecryptionStreamEmitsDecStream
  intro s cipher plain hm hk h
  obtain ⟨t, ht, done⟩ := execAll_decStreamCommands hm hk h
  exact ⟨t, ht, done.out, done.idle, done.valid, done.keys, done.result, done.sticky⟩

/-! ## Decryption that fails -/

/-- The commands of an aborted stream that are left over are refused by the sequence, SEND with them (R204). -/
theorem execAll_sbytes_send_idle {s : State} (hm : s.smode = .idle) (bytes : List Byte) :
    ∃ t, execAll (bytes.map Instr.sbyte ++ [.send]) s = .next t ∧ t.smode = .idle ∧ t.lasterr = 4 := by
  induction bytes generalizing s with
  | nil => exact ⟨_, execAll_single (execSend_eq_next.mpr (.inl ⟨hm, rfl⟩)), hm, rfl⟩
  | cons d bytes ih =>
    have refused : exec (.sbyte d) s = .next { s with lasterr := 4, sticky := s.sticky ||| 0b01000 } :=
      execSbyte_eq_next.mpr (.inl ⟨hm, rfl⟩)
    obtain ⟨t, ht, hmt, herr⟩ := ih (s := { s with lasterr := 4, sticky := s.sticky ||| 0b01000 }) hm
    exact ⟨t, (Framer.execAll_cons_of_next refused _).trans ht, hmt, herr⟩

/-- A byte in DEC is counted in BCNT modulo 3 (R167). -/
theorem exec_sbyte_counts_dec {s : State} (hm : s.smode = .dec) (hb : s.bcnt.toNat ≤ 2) (d : Byte) :
    ∃ t, exec (.sbyte d) s = .next t ∧ t.smode = .dec ∧ t.bcnt.toNat = (s.bcnt.toNat + 1) % 3 := by
  by_cases h2 : s.bcnt.toNat < 2
  · refine ⟨_, Framer.exec_sbyte_buffered (.inr hm) h2 d, hm, ?_⟩
    rw [BitVec.toNat_add, show (1 : BitVec 2).toNat = 1 from rfl]
    omega
  · obtain hb2 : s.bcnt.toNat = 2 := by omega
    exact ⟨_, Framer.exec_sbyte_completes_dec hm hb2.ge d, hm, by rw [hb2]; rfl⟩

theorem execAll_sbytes_count_dec {s : State} (hm : s.smode = .dec) (hb : s.bcnt.toNat ≤ 2) (bytes : List Byte) :
    ∃ t, execAll (bytes.map Instr.sbyte) s = .next t ∧ t.smode = .dec ∧ t.bcnt.toNat = (s.bcnt.toNat + bytes.length) % 3 := by
  induction bytes generalizing s with
  | nil => exact ⟨s, rfl, hm, by rw [List.length_nil, Nat.add_zero, Nat.mod_eq_of_lt (by omega)]⟩
  | cons d bytes ih =>
    obtain ⟨u, hu, hmu, hbu⟩ := exec_sbyte_counts_dec hm hb d
    obtain ⟨t, ht, hmt, hbt⟩ := ih hmu (by omega)
    exact ⟨t, (Framer.execAll_cons_of_next hu _).trans ht, hmt, by rw [hbt, hbu, List.length_cons]; omega⟩

/-- DecStream fails on no header, a header above 2, or a partial chunk (R170). -/
theorem decStream_eq_none {g : Block12 → Block12} {cipher : List Byte} (h : decStream g cipher = none) :
    cipher = [] ∨ ∃ header body, cipher = header :: body ∧ (2 < header.toNat ∨ header.toNat ≤ 2 ∧ body.length % 3 ≠ 0) := by
  cases cipher with
  | nil => exact .inl rfl
  | cons header body =>
    rw [decStream] at h
    split at h
    case isTrue hbad => exact .inr ⟨header, body, rfl, by omega⟩
    case isFalse => cases h

/-- The state after a FormatError (R169). -/
def aborted (s : State) : State :=
  { s with smode := .idle, bcnt := 0, hv := false, lasterr := 2, sticky := s.sticky ||| 0b00010 }

theorem aborted_not_valid (s : State) : ¬ StreamResultValid (aborted s) := by
  show (2 : BitVec 3) ≠ 0
  decide

/-- A stream with a command that aborts it fails, if what is left of it ends idle and not valid. -/
theorem stream_fails_of_abort {cipher : List Byte} {s u t : State} {before after : List Instr} {i : Instr}
    (hsplit : decStreamCommands cipher = before ++ i :: after) (hbefore : execAll before s = .next u)
    (habort : exec i u = .next (aborted u)) (hafter : execAll after (aborted u) = .next t)
    (hinvalid : ¬ StreamResultValid t) (hidle : t.smode = .idle) :
    (∃ (before : List Instr) (i : Instr) (after : List Instr) (u v : State),
      decStreamCommands cipher = before ++ i :: after ∧ execAll before s = .next u ∧ exec i u = .next v ∧
      v.lasterr = 2 ∧ v.smode = .idle) ∧
    ∃ t, execAll (decStreamCommands cipher) s = .next t ∧ ¬ StreamResultValid t ∧ t.smode = .idle := by
  refine ⟨⟨before, i, after, u, aborted u, hsplit, hbefore, habort, rfl, rfl⟩, t, ?_, hinvalid, hidle⟩
  rw [hsplit, execAll_append_of_next hbefore, Framer.execAll_cons_of_next habort, hafter]

/-- Settles O45: with no header SEND aborts the stream, a header above 2 aborts it at once and leaves its commands refused, and a
partial chunk makes SEND abort it. -/
theorem failingDecStreamRaisesFormatError : Obligations.FailingDecStreamRaisesFormatError := by
  unfold Obligations.FailingDecStreamRaisesFormatError
  intro s cipher hm hk h
  obtain rfl | ⟨header, body, rfl, hheader | ⟨hheader, hpartial⟩⟩ := decStream_eq_none h
  case inl =>
    obtain ⟨u, hu, hmu, -⟩ := exec_sdec_opens hm hk
    exact stream_fails_of_abort (before := [.sdec]) rfl (execAll_single hu) (Framer.exec_send_aborts (.inl hmu)) rfl
      (aborted_not_valid u) rfl
  case inr.inl =>
    obtain ⟨u, hu, hmu, -⟩ := exec_sdec_opens hm hk
    obtain ⟨t, ht, hmt, herr⟩ := execAll_sbytes_send_idle (s := aborted u) rfl body
    exact stream_fails_of_abort (before := [.sdec]) (i := .sbyte header) rfl (execAll_single hu)
      (execSbyte_eq_next.mpr (.inr (.inl ⟨hmu, hheader, rfl⟩))) ht (by rw [StreamResultValid, herr]; decide) hmt
  case inr.inr =>
    obtain ⟨u, hu, hmu, -, -, hbu, -⟩ := execAll_sdec_header hm hk hheader
    obtain ⟨v, hv, hmv, hbv⟩ := execAll_sbytes_count_dec hmu (by simp [hbu]) body
    have hcollected : v.bcnt.toNat ≠ 0 := by simpa [hbv, hbu] using hpartial
    exact stream_fails_of_abort (before := [.sdec, .sbyte header] ++ body.map Instr.sbyte) rfl
      ((execAll_append_of_next hu _).trans hv) (Framer.exec_send_aborts (.inr (.inr ⟨hmv, hcollected⟩))) rfl
      (aborted_not_valid v) rfl

/-! ## The round trip -/

/-- Whole chunks keep their bytes' number. -/
theorem mapChunks_length (f : Block12 → Block12) : ∀ {bytes : List Byte}, bytes.length % 3 = 0 →
    (mapChunks f bytes).length = bytes.length
  | [], _ => rfl
  | [_], h | [_, _], h => absurd h (by simp)
  | c0 :: c1 :: c2 :: rest, h => by
    have hrest := length_rest_mod_three h
    simp only [mapChunks, List.length_append, chunkBytes_length, mapChunks_length f hrest, List.length_cons]
    omega

/-- Inverse block transforms undo each other on whole chunks (R164). -/
theorem mapChunks_mapChunks {f g : Block12 → Block12} (h : ∀ b, g (f b) = b) : ∀ {bytes : List Byte},
    bytes.length % 3 = 0 → mapChunks g (mapChunks f bytes) = bytes
  | [], _ => rfl
  | [_], hlen | [_, _], hlen => absurd hlen (by simp)
  | c0 :: c1 :: c2 :: rest, hlen => by
    have hrest := length_rest_mod_three hlen
    calc mapChunks g (mapChunks f (c0 :: c1 :: c2 :: rest))
        = chunkBytes (mapChunk g (mapChunk f ⟨c0, c1, c2⟩)) ++ mapChunks g (mapChunks f rest) := rfl
      _ = c0 :: c1 :: c2 :: rest := by rw [Rounds.mapChunk_mapChunk h, mapChunks_mapChunks h hrest]; rfl

/-- The padding completes the last chunk (R170). -/
theorem padded_length (plain : List Byte) (filler : Byte) :
    (plain ++ List.replicate (streamPad plain.length) filler).length = plain.length + streamPad plain.length ∧
      (plain.length + streamPad plain.length) % 3 = 0 := by
  refine ⟨by simp, ?_⟩
  unfold streamPad
  omega

/-- DecStream undoes EncStream (R172). -/
theorem decStream_encStream {f g : Block12 → Block12} (h : ∀ b, g (f b) = b) (filler : Byte) (plain : List Byte) :
    decStream g (encStream f filler plain) = some plain := by
  obtain ⟨hlen, hwhole⟩ := padded_length plain filler
  have hpad := streamPad_le_two plain.length
  rw [encStream, decStream, mapChunks_length f (hlen ▸ hwhole), mapChunks_mapChunks h (hlen ▸ hwhole), hlen,
    toNat_ofNat_streamPad, if_neg (by omega), Nat.add_sub_cancel, List.take_left]

/-- Settles O46: the bytes that the first stream emitted are EncStream of the plaintext, which the second decrypts under the same
schedule. -/
theorem streamRoundTrip : Obligations.StreamRoundTrip := by
  unfold Obligations.StreamRoundTrip
  refine ⟨fun _ _ filler plain h => decStream_encStream h filler plain, fun s plain hm hk => ?_⟩
  obtain ⟨t, ht, encrypted⟩ := execAll_encStreamCommands hm hk plain
  obtain ⟨-, -, hkv, -⟩ := encrypted.keys
  have hdec : decStream (decBlock t) (emittedSlice s t) = some plain := by
    rw [encrypted.decBlock_eq, encrypted.emittedSlice_eq]
    exact decStream_encStream (Rounds.decBlock_encBlock s) 0x00 plain
  obtain ⟨u, hu, decrypted⟩ := execAll_decStreamCommands encrypted.idle (hkv.trans hk) hdec
  exact ⟨t, u, ht, hu, decrypted.emittedSlice_eq, decrypted.valid⟩

end Sys2Proof.Proofs.Streams
end
